-- ==== Sys2Proof/Word.lean ====
section
/-! DEFINITION. The widths the block computes with: bytes, 32-bit words and nibbles (spec/00_scope.md
R5, R9, R14). Every value of the spec is unsigned. -/

namespace Sys2Proof

/-- A byte, the spec's `u8` (R5). -/
abbrev Byte := BitVec 8

/-- A 32-bit word, the spec's `u32` (R5): the command word, `res`, `crc_reg`, `hex_acc`, `scan_pos`. -/
abbrev Word := BitVec 32

/-- A 4-bit value, the value of one hex digit (R14). -/
abbrev Nibble := BitVec 4

end Sys2Proof
end

