-- ==== Sys2Proof/Syntax.lean ====
section
/-! DEFINITION. The commands of the block, one constructor per row of spec/opcode_table.json
(spec/30_encoding.md R73), and the lines of its assembler (R78, R79). -/

namespace Sys2Proof

/-- A legal command (R73). An operand byte is an argument; RSV and the operand fields that must be
zero are no part of a command, so every term of this type is well formed. -/
inductive Instr where
  /-- NOP, 0x00 (R101). -/
  | nop
  /-- SRESET, 0x01 (R103). -/
  | sreset
  /-- STATUS, 0x02 (R102). -/
  | status
  /-- CRC_INIT, 0x10 (R125). -/
  | crcInit
  /-- CRC_BYTE, 0x11, with the data byte B (R126). -/
  | crcByte (b : Byte)
  /-- CRC_READ, 0x12 (R127). -/
  | crcRead
  /-- CRC_RAW, 0x13 (R128). -/
  | crcRaw
  /-- HEX_DEC, 0x20, with the first character A and the second character B (R152). -/
  | hexDec (a b : Byte)
  /-- HEX_ENC, 0x21, with the byte B (R153). -/
  | hexEnc (b : Byte)
  /-- HEX_CLR, 0x22 (R154). -/
  | hexClr
  /-- HEX_PUSH, 0x23, with the character B (R155). -/
  | hexPush (b : Byte)
  /-- HEX_ACC, 0x24 (R156). -/
  | hexAcc
  /-- SCAN_CLR, 0x30 (R185). -/
  | scanClr
  /-- SCAN_BYTE, 0x31, with the stream byte B (R186). -/
  | scanByte (b : Byte)
  /-- SCAN_SKIP, 0x32 (R187). -/
  | scanSkip
  /-- SCAN_POS, 0x33 (R188). -/
  | scanPos
  deriving DecidableEq, Repr

/-- What the decoder answers for a word: one command or the verdict `illegal`, "and never anything
else" (R76). -/
inductive Decoded where
  | command (i : Instr)
  | illegal
  deriving DecidableEq, Repr

/-- An operand as the assembler reads it (R78); a string stands only in a pseudo-instruction (R79). -/
inductive AsmOperand where
  | number (n : Nat)
  | char (c : Char)
  | string (cs : List Char)
  deriving DecidableEq, Repr

/-- One line of assembler: the mnemonic, then its operands (R78). -/
structure AsmLine where
  mnemonic : String
  operands : List AsmOperand
  deriving DecidableEq, Repr

/-- Why a line is an assembly error (R78, R79). -/
inductive AsmError where
  /-- the mnemonic is none of R73's and none of R79's -/
  | unknownMnemonic
  /-- an operand outside 0..255 -/
  | operandRange
  /-- a missing or extra operand, or a string of the wrong length -/
  | operandCount
  /-- an operand that is neither a number nor a character literal where one is asked for -/
  | operandKind
  /-- text that is no line of R78's form -/
  | malformedLine
  deriving DecidableEq, Repr

end Sys2Proof
end

