-- ==== Sys2Proof/WellFormed.lean ====
section
/-! DEFINITION. When a command word is legal (spec/30_encoding.md R74), as a table of match and mask
written beside spec/opcode_table.json and apart from the decoder, and when an assembler line of a
command is well formed (R78). -/

namespace Sys2Proof

/-- The match and mask of one row of spec/opcode_table.json. -/
structure OpcodeRow where
  matchWord : Word
  mask : Word
  deriving DecidableEq, Repr

/-- The sixteen rows, in the table's order (R73, R74). -/
def opcodeTable : List OpcodeRow := [
  { matchWord := 0x00000000#32, mask := 0xFFFFFFFF#32 },  -- NOP
  { matchWord := 0x01000000#32, mask := 0xFFFFFFFF#32 },  -- SRESET
  { matchWord := 0x02000000#32, mask := 0xFFFFFFFF#32 },  -- STATUS
  { matchWord := 0x10000000#32, mask := 0xFFFFFFFF#32 },  -- CRC_INIT
  { matchWord := 0x11000000#32, mask := 0xFFFFFF00#32 },  -- CRC_BYTE
  { matchWord := 0x12000000#32, mask := 0xFFFFFFFF#32 },  -- CRC_READ
  { matchWord := 0x13000000#32, mask := 0xFFFFFFFF#32 },  -- CRC_RAW
  { matchWord := 0x20000000#32, mask := 0xFFFF0000#32 },  -- HEX_DEC
  { matchWord := 0x21000000#32, mask := 0xFFFFFF00#32 },  -- HEX_ENC
  { matchWord := 0x22000000#32, mask := 0xFFFFFFFF#32 },  -- HEX_CLR
  { matchWord := 0x23000000#32, mask := 0xFFFFFF00#32 },  -- HEX_PUSH
  { matchWord := 0x24000000#32, mask := 0xFFFFFFFF#32 },  -- HEX_ACC
  { matchWord := 0x30000000#32, mask := 0xFFFFFFFF#32 },  -- SCAN_CLR
  { matchWord := 0x31000000#32, mask := 0xFFFFFF00#32 },  -- SCAN_BYTE
  { matchWord := 0x32000000#32, mask := 0xFFFFFFFF#32 },  -- SCAN_SKIP
  { matchWord := 0x33000000#32, mask := 0xFFFFFFFF#32 }   -- SCAN_POS
]

/-- Whether a row matches a word: `(cmd & mask) == match` (R74). -/
def OpcodeRow.accepts (r : OpcodeRow) (cmd : Word) : Bool := (cmd &&& r.mask) == r.matchWord

/-- R74's `legal(cmd)`: some row of the table matches. -/
def legal (cmd : Word) : Bool := opcodeTable.any fun r => r.accepts cmd

/-- The byte a character stands for, its ASCII code (R78), if it has one (log entry 10). -/
def charCode? (c : Char) : Option Byte :=
  if c.toNat < 128 then some (BitVec.ofNat 8 c.toNat) else none

/-- The byte an operand stands for, if it is one as R78 asks: a number in 0..255, or a character literal
that stands for its ASCII code. -/
def AsmOperand.byte? : AsmOperand → Option Byte
  | .number n => if n < 256 then some (BitVec.ofNat 8 n) else none
  | .char c => charCode? c
  | .string _ => none

/-- Whether an operand is one byte (R78). -/
def AsmOperand.isByte (o : AsmOperand) : Bool := o.byte?.isSome

/-- How many operands R78 gives each mnemonic of R73; none for a name that is no command's. -/
def operandCount (mnemonic : String) : Option Nat :=
  if mnemonic ∈ ["CRC_BYTE", "HEX_ENC", "HEX_PUSH", "SCAN_BYTE"] then some 1
  else if mnemonic = "HEX_DEC" then some 2
  else if mnemonic ∈ ["NOP", "SRESET", "STATUS", "CRC_INIT", "CRC_READ", "CRC_RAW", "HEX_CLR",
      "HEX_ACC", "SCAN_CLR", "SCAN_SKIP", "SCAN_POS"] then some 0
  else none

/-- A well-formed command line: a known mnemonic, as many operands as it takes, each one byte (R78).
Pseudo-instructions (R79) are lines of another kind. -/
def AsmLine.wellFormed (l : AsmLine) : Bool :=
  operandCount l.mnemonic == some l.operands.length && l.operands.all AsmOperand.isByte

end Sys2Proof
end

