-- ==== Sys2Proof/Decode.lean ====
section
/-! DEFINITION. The decoder, total on all 2^32 words (spec/30_encoding.md R71 to R76), and the
encoder, written from the same table (R73). -/

namespace Sys2Proof

/-- OP, bits [31:24] (R71). -/
def opField (cmd : Word) : Byte := cmd.extractLsb' 24 8

/-- RSV, bits [23:16] (R71). -/
def rsvField (cmd : Word) : Byte := cmd.extractLsb' 16 8

/-- A, bits [15:8] (R71). -/
def aField (cmd : Word) : Byte := cmd.extractLsb' 8 8

/-- B, bits [7:0] (R71). -/
def bField (cmd : Word) : Byte := cmd.extractLsb' 0 8

/-- A command with no operand: A and B must be zero (R73). -/
def decodeNone (i : Instr) (a b : Byte) : Decoded :=
  if a = 0#8 ∧ b = 0#8 then .command i else .illegal

/-- A command whose operand is B: A must be zero (R73). -/
def decodeB (mk : Byte → Instr) (a b : Byte) : Decoded :=
  if a = 0#8 then .command (mk b) else .illegal

/-- The opcode map of R73, on the full 8-bit OP. -/
def decodeFields (op a b : Byte) : Decoded :=
  match op.toNat with
  | 0x00 => decodeNone .nop a b
  | 0x01 => decodeNone .sreset a b
  | 0x02 => decodeNone .status a b
  | 0x10 => decodeNone .crcInit a b
  | 0x11 => decodeB .crcByte a b
  | 0x12 => decodeNone .crcRead a b
  | 0x13 => decodeNone .crcRaw a b
  | 0x20 => .command (.hexDec a b)
  | 0x21 => decodeB .hexEnc a b
  | 0x22 => decodeNone .hexClr a b
  | 0x23 => decodeB .hexPush a b
  | 0x24 => decodeNone .hexAcc a b
  | 0x30 => decodeNone .scanClr a b
  | 0x31 => decodeB .scanByte a b
  | 0x32 => decodeNone .scanSkip a b
  | 0x33 => decodeNone .scanPos a b
  | _ => .illegal

/-- R76's `decode(cmd)`: RSV must be zero, and OP, A and B fit a row of R73; every other word is
`illegal` (R75). It reads nothing but the word. -/
def decode (cmd : Word) : Decoded :=
  if rsvField cmd = 0#8 then decodeFields (opField cmd) (aField cmd) (bField cmd) else .illegal

/-- The OP value of a command (R73). -/
def Instr.opcode : Instr → Byte
  | .nop => 0x00#8
  | .sreset => 0x01#8
  | .status => 0x02#8
  | .crcInit => 0x10#8
  | .crcByte _ => 0x11#8
  | .crcRead => 0x12#8
  | .crcRaw => 0x13#8
  | .hexDec _ _ => 0x20#8
  | .hexEnc _ => 0x21#8
  | .hexClr => 0x22#8
  | .hexPush _ => 0x23#8
  | .hexAcc => 0x24#8
  | .scanClr => 0x30#8
  | .scanByte _ => 0x31#8
  | .scanSkip => 0x32#8
  | .scanPos => 0x33#8

/-- The A field of a command: zero but for HEX_DEC (R71). -/
def Instr.operandA : Instr → Byte
  | .hexDec a _ => a
  | .nop | .sreset | .status | .crcInit | .crcByte _ | .crcRead | .crcRaw | .hexEnc _ | .hexClr
  | .hexPush _ | .hexAcc | .scanClr | .scanByte _ | .scanSkip | .scanPos => 0#8

/-- The B field of a command: zero for a command with no operand (R71). -/
def Instr.operandB : Instr → Byte
  | .crcByte b | .hexDec _ b | .hexEnc b | .hexPush b | .scanByte b => b
  | .nop | .sreset | .status | .crcInit | .crcRead | .crcRaw | .hexClr | .hexAcc | .scanClr
  | .scanSkip | .scanPos => 0#8

/-- The command word of a command: OP, RSV = 0, A, B from the high end down (R71). -/
def encode (i : Instr) : Word := i.opcode ++ 0#8 ++ i.operandA ++ i.operandB

/-- The word whose low `nbits` bits are those of `w` and whose other bits are zero: the command word
is one 32-bit word on the port, and has no byte order (R56, R71). -/
def tableWord (nbits w : Nat) : Word := BitVec.ofNat 32 (w % 2 ^ nbits)

/-- The command this decoder reads from the word of a row of spec/opcode_table.json. -/
def decodeTableWord (nbits w : Nat) : Option Instr :=
  match decode (tableWord nbits w) with
  | .command i => some i
  | .illegal => none

end Sys2Proof
end

