-- ==== Sys2Proof/Config.lean ====
section
/-! DEFINITION. What is fixed for one block: the constants the spec gives (spec/00_scope.md R6,
spec/41_crc32.md R120) and the two CRC parameters a model takes as arguments (R7). The spec leaves no
value free (spec/93_implementation_defined.md: "No behaviour of the block is any value or stuck"), so
nothing here is opaque. -/

namespace Sys2Proof

/-- The parameters of R7. They are configuration, not state (R20): a machine state carries the
parameters of its own block beside the ten state fields and no step changes them, so that a statement
about every state is a statement about every choice of them. Log entry 1. -/
structure Config where
  /-- CRC_REFLECT: `true` processes each byte least-significant bit first (R7, R121). -/
  crcReflect : Bool
  /-- CRC_XOROUT: the value finalization XORs onto the register (R7, R122). -/
  crcXorOut : Word
  deriving DecidableEq, Repr

/-- The defaults R7 gives: CRC_REFLECT = true, CRC_XOROUT = 0xFFFFFFFF. -/
def Config.default : Config := { crcReflect := true, crcXorOut := 0xFFFFFFFF#32 }

/-- CRC_POLY, the generator polynomial with its x^32 term omitted (R6). -/
def crcPoly : Word := 0x04C11DB7#32

/-- CRC_RPOLY, the polynomial in reflected bit order (R120). -/
def crcRPoly : Word := 0xEDB88320#32

/-- CRC_SEED, the value the CRC register is initialized to (R6). -/
def crcSeed : Word := 0xFFFFFFFF#32

/-- LIT_MESS, the bytes of `mess=` (R6, R180). -/
def litMess : Vector Byte 5 := #v[0x6D#8, 0x65#8, 0x73#8, 0x73#8, 0x3D#8]

/-- LIT_MASK, the bytes of `mask=` (R6, R180). -/
def litMask : Vector Byte 5 := #v[0x6D#8, 0x61#8, 0x73#8, 0x6B#8, 0x3D#8]

end Sys2Proof
end

