-- ==== Sys2Proof/Machine/State.lean ====
section
/-! DEFINITION. The state of the machine as plain data: the ten fields of spec/10_state.md R20, and
beside them the block's parameters (spec/00_scope.md R7) and the inputs the host has yet to present
(spec/30_encoding.md R70). The block has no memory, register file or program counter (R31, R32, R50). -/

namespace Sys2Proof.Machine

/-- S of R20, "exactly the ten fields below". The first three clauses of R36's invariant hold by the
fields' types, as R36 asks. -/
structure Block where
  /-- `crc_reg`, the CRC register (R21) -/
  crcReg : Word
  /-- `hex_acc`, the hex accumulator (R22) -/
  hexAcc : Word
  /-- `hex_cnt`, digits pushed, 0..8 (R23) -/
  hexCnt : Fin 9
  /-- `mess_cnt`, the partial-match counter of `mess=`, 0..4 (R24) -/
  messCnt : Fin 5
  /-- `mask_cnt`, the partial-match counter of `mask=`, 0..4 (R25) -/
  maskCnt : Fin 5
  /-- `scan_pos`, stream bytes counted modulo 2^32 (R26) -/
  scanPos : Word
  /-- `res`, the result register (R27) -/
  res : Word
  /-- `err_code`, the first error's code, 0x00 for none (R28) -/
  errCode : Byte
  /-- `err_idx`, which character was at fault (R29) -/
  errIdx : BitVec 1
  /-- `err_data`, the first error's context (R30) -/
  errData : Byte
  deriving DecidableEq, Repr

/-- What the host presents in one step (R70, R247): `rst = 1` (the command is then ignored), no valid
command, or one 32-bit command word. -/
inductive PortInput where
  | hardReset
  | idle
  | command (cmd : Word)
  deriving DecidableEq, Repr

/-- The machine: the block, its parameters, and the host's inputs to come, oldest first. `config` and
`port` are the model's own fields (log entries 1 and 2): R20 makes the parameters configuration, and
the inputs belong to the host. -/
structure State where
  block : Block
  config : Config
  port : List PortInput
  deriving DecidableEq, Repr

/-- The reasons a step can stop with a fault: none. Every error the spec names is recorded in the
state, and the machine goes on (R211, R219), so no step raises a fault. Log entry 4. -/
inductive Fault where
  deriving DecidableEq, Repr

/-- The reasons a step is refused. -/
inductive Refusal where
  /-- Raised by an arm of `exec` whose command has no meaning yet; no arm is left so. Safe. -/
  | notModelled (mnemonic : String)
  /-- Raised by every step and every command from a state that breaks R36's invariant: such a state is
  not reachable from reset, and R36 says to "give that state no successor (refuse)". Safe. Log
  entry 3. -/
  | invariantViolated
  deriving DecidableEq, Repr

/-- The error kinds that R210 gives a code. The block raises only two of them. -/
inductive ErrorKind where
  | inputNotFound
  | invalidHexDigit
  | payloadTooLong
  | unexpectedEndOfStream
  | duplicateMessage
  | duplicateMask
  | illegalCommand
  deriving DecidableEq, Repr

/-- `reset_state` (R240): `crc_reg` is the seed and every other field is zero. -/
def Block.reset : Block where
  crcReg := 0xFFFFFFFF#32
  hexAcc := 0x00000000#32
  hexCnt := 0
  messCnt := 0
  maskCnt := 0
  scanPos := 0x00000000#32
  res := 0x00000000#32
  errCode := 0x00#8
  errIdx := 0#1
  errData := 0x00#8

/-- The machine right after reset (R240, R241), with R7's default parameters (log entry 1) and no
input presented yet (log entry 2). -/
def State.reset : State where
  block := Block.reset
  config := Config.default
  port := []

end Sys2Proof.Machine
end

