-- ==== Sys2Proof/Machine/Flags.lean ====
section
/-! DEFINITION. What the host can see that is not stored: the STATUS word (spec/10_state.md R34), the
marker event bits and the fault flag (R33), and the port's outputs (spec/30_encoding.md R70). -/

namespace Sys2Proof.Machine

/-- The fault flag, `S.err_code != 0` (R33, R212): the block is in the fault state. -/
def Block.inFault (b : Block) : Bool := b.errCode != 0x00#8

/-- `status_word(S)`: ERR_DATA, ERR_IDX, four zeros, MASK_CNT, a zero, MESS_CNT, HEX_CNT, ERR_CODE,
from bit 31 down (R34). -/
def Block.statusWord (b : Block) : Word :=
  b.errData ++ b.errIdx ++ 0#4 ++ BitVec.ofNat 3 b.maskCnt.val ++ 0#1 ++ BitVec.ofNat 3 b.messCnt.val
    ++ BitVec.ofNat 4 b.hexCnt.val ++ b.errCode

/-- The 2-bit event of a scanner step as a result word: bit 0 is `mess=` found, bit 1 is `mask=` found
(R33, R182, R186). -/
def eventWord (fMask fMess : Bool) : Word :=
  (BitVec.ofBool fMask ++ BitVec.ofBool fMess).setWidth 32

/-- The `res` output: equal to `S.res` (R70). -/
def State.resOutput (s : State) : Word := s.block.res

/-- The `fault` output: equal to `S.err_code != 0` (R70). -/
def State.faultOutput (s : State) : Bool := s.block.inFault

/-- The `cmd_ready` output: constant 1, since the block never refuses or delays a command (R70, R247). -/
def State.cmdReady (_ : State) : Bool := true

end Sys2Proof.Machine
end

