-- ==== Sys2Proof/Machine/Ops.lean ====
section
/-! DEFINITION. The operations every command goes through: writing the fields, raising an error
(spec/60_exceptions.md R211), leaving the fault state (R220), the command cycle's cases
(spec/40_block_control.md R100) and the port (spec/30_encoding.md R70). -/

namespace Sys2Proof.Machine

/-! ### Writing the fields -/

/-- `S.crc_reg <- v` (R21). -/
def Block.setCrcReg (b : Block) (v : Word) : Block := { b with crcReg := v }

/-- `S.hex_acc <- acc; S.hex_cnt <- cnt` (R22, R23). -/
def Block.setHex (b : Block) (acc : Word) (cnt : Fin 9) : Block :=
  { b with hexAcc := acc, hexCnt := cnt }

/-- `S.mess_cnt <- m; S.mask_cnt <- k` (R24, R25). -/
def Block.setCounters (b : Block) (m k : Fin 5) : Block := { b with messCnt := m, maskCnt := k }

/-- `S.scan_pos <- v` (R26). -/
def Block.setScanPos (b : Block) (v : Word) : Block := { b with scanPos := v }

/-- `S.res <- v` (R27). -/
def Block.setRes (b : Block) (v : Word) : Block := { b with res := v }

/-- A new block state under the same parameters and inputs. -/
def State.setBlock (s : State) (b : Block) : State := { s with block := b }

/-- The host's inputs to come. -/
def State.setPort (s : State) (p : List PortInput) : State := { s with port := p }

/-! ### Errors -/

/-- The code of an error kind (R210). -/
def ErrorKind.code : ErrorKind → Byte
  | .inputNotFound => 0x01#8
  | .invalidHexDigit => 0x02#8
  | .payloadTooLong => 0x03#8
  | .unexpectedEndOfStream => 0x04#8
  | .duplicateMessage => 0x05#8
  | .duplicateMask => 0x06#8
  | .illegalCommand => 0x07#8

/-- `raise E(idx, data)` (R211), the block's one error entry: it writes the three error fields and
nothing else, and enters the fault state (R219). -/
def Block.raise (b : Block) (e : ErrorKind) (idx : BitVec 1) (data : Byte) : Block :=
  { b with errCode := e.code, errIdx := idx, errData := data }

/-- The reset action (R240): every field at its reset value. It is the only way out of the fault state
(R220), and there is no return from an error that keeps any field. -/
def Block.resetAction (_ : Block) : Block := Block.reset

/-! ### The command cycle -/

/-- The eight values the pair of counters can take (R35). -/
def counterPairs : List (Fin 5 × Fin 5) :=
  [(0, 0), (1, 1), (2, 0), (3, 0), (4, 0), (0, 2), (0, 3), (0, 4)]

/-- The values `err_code` can take (R36, R210). -/
def legalErrCodes : List Byte := [0x00#8, 0x02#8, 0x07#8]

/-- R36's invariant. Its first three clauses, the ranges of the counters, hold by the fields' types. -/
abbrev Block.Invariant (b : Block) : Prop :=
  (b.messCnt, b.maskCnt) ∈ counterPairs ∧ b.errCode ∈ legalErrCodes

/-- One step of the block from a state that meets R36's invariant; a state that breaks it has no
successor (R36). -/
def applyToBlock (f : Block → Block) (s : State) : Host.Outcome State Fault Refusal :=
  if s.block.Invariant then .next (s.setBlock (f s.block)) else .refused .invariantViolated

/-- A command other than STATUS and SRESET: no effect in the fault state, else its own effect (R100,
R212). -/
def runCommand (f : Block → Block) (s : State) : Host.Outcome State Fault Refusal :=
  applyToBlock (fun b => if b.inFault then b else f b) s

/-- A word that is no command: IllegalCommand with the word's OP as context, but for the fault state,
where it has no effect (R100, R213). -/
def illegalCommand (cmd : Word) (s : State) : Host.Outcome State Fault Refusal :=
  runCommand (fun b => b.raise .illegalCommand 0#1 (opField cmd)) s

/-! ### The port -/

/-- The input the host presents in this step, and the state with it consumed. A host with nothing to
present is idle (R226, R247). -/
def nextInput (s : State) : PortInput × State :=
  match s.port with
  | [] => (.idle, s)
  | e :: rest => (e, s.setPort rest)

/-- No valid command: "otherwise `S` is unchanged" (R70, R226). -/
def idleCycle (s : State) : Host.Outcome State Fault Refusal := applyToBlock (fun b => b) s

/-- The hardware reset, `rst = 1` (R70, R240). -/
def hardReset (s : State) : Host.Outcome State Fault Refusal := applyToBlock Block.resetAction s

/-- The host presents a word in the very next step. -/
def State.present (s : State) (cmd : Word) : State := s.setPort (.command cmd :: s.port)

end Sys2Proof.Machine
end

