-- ==== Sys2Proof/Machine/BlockControl.lean ====
section
/-! DEFINITION. The commands on the block as a whole: NOP, STATUS and SRESET
(spec/40_block_control.md R101 to R103). -/

namespace Sys2Proof.Machine

/-- NOP (R101): no field changes. -/
def execNop (s : State) : Host.Outcome State Fault Refusal := runCommand (fun b => b) s

/-- SRESET (R103): `S <- reset_state`, in every state, the fault state included. -/
def execSreset (s : State) : Host.Outcome State Fault Refusal := applyToBlock Block.resetAction s

/-- STATUS (R102): `S.res <- status_word(S)`, in the fault state too. -/
def execStatus (s : State) : Host.Outcome State Fault Refusal :=
  applyToBlock (fun b => b.setRes b.statusWord) s

end Sys2Proof.Machine
end

