-- ==== Sys2Proof/Machine/Operands.lean ====
section
/-! DEFINITION. The operand forms: widening (spec/00_scope.md R9, R10), the hex digits
(spec/42_hex_codec.md R150, R151) and the literals of the scanner (spec/43_marker_scanner.md R180,
R181). -/

namespace Sys2Proof.Machine

/-- `zext_32(v)`: the new high bits are 0 (R9). -/
def zext32 {n : Nat} (v : BitVec n) : Word := v.setWidth 32

/-- `bitrev32(v)`: bit i of the result is bit 31-i of `v` (R10). -/
def bitrev32 (v : Word) : Word := v.reverse

/-- `nib(c)`: the value of a hex digit, `none` for the spec's INVALID (R150). -/
def nib (c : Byte) : Option Nibble :=
  if 0x30#8 ≤ c ∧ c ≤ 0x39#8 then some ((c - 0x30#8).setWidth 4)
  else if 0x41#8 ≤ c ∧ c ≤ 0x46#8 then some ((c - 0x37#8).setWidth 4)
  else if 0x61#8 ≤ c ∧ c ≤ 0x66#8 then some ((c - 0x57#8).setWidth 4)
  else none

/-- `enc(n)`: the code of a nibble's lowercase hex digit (R151). -/
def enc (n : Nibble) : Byte :=
  if n ≤ 9#4 then 0x30#8 + n.setWidth 8 else 0x57#8 + n.setWidth 8

/-- The high nibble of a byte, bits [7:4] (R54). -/
def highNibble (b : Byte) : Nibble := b.extractLsb' 4 4

/-- The low nibble of a byte, bits [3:0] (R54). -/
def lowNibble (b : Byte) : Nibble := b.extractLsb' 0 4

/-- `lit_step(L, c, b)`: one literal's counter on one byte, and whether the literal was found (R181).
The byte is compared by exact 8-bit equality. -/
def litStep (L : Vector Byte 5) (c : Fin 5) (b : Byte) : Fin 5 × Bool :=
  let n : Nat := if b = L[c] then c.val + 1 else if b = L[0] then 1 else 0
  if h : n < 5 then (⟨n, h⟩, false) else (0, true)

end Sys2Proof.Machine
end

