-- ==== Sys2Proof/Machine/Crc.lean ====
section
/-! DEFINITION. The CRC unit (spec/41_crc32.md R120 to R128): the bitwise update, which is normative,
the table-driven form, `compute`, and the four CRC commands. -/

namespace Sys2Proof.Machine

/-- One bit of the reflected update: shift right, and XOR with CRC_RPOLY when bit 0 was 1 (R121). -/
def crcBitReflected (r : Word) : Word :=
  if r.getLsbD 0 then (r >>> 1) ^^^ crcRPoly else r >>> 1

/-- One bit of the direct update: shift left, and XOR with CRC_POLY when bit 31 was 1 (R121). -/
def crcBitDirect (r : Word) : Word :=
  if r.getLsbD 31 then (r <<< 1) ^^^ crcPoly else r <<< 1

/-- `crc_update(r, b)` for the direction CRC_REFLECT names (R121). -/
def crcUpdate (reflect : Bool) (r : Word) (b : Byte) : Word :=
  if reflect then Nat.iterate crcBitReflected 8 (r ^^^ zext32 b)
  else Nat.iterate crcBitDirect 8 (r ^^^ (zext32 b <<< 24))

/-- `crc_final(r)` (R122). -/
def crcFinal (c : Config) (r : Word) : Word := r ^^^ c.crcXorOut

/-- `T_R[i]` and `T_D[i]`: the lookup table of each direction (R123). -/
def crcTable (reflect : Bool) (i : Byte) : Word := crcUpdate reflect 0#32 i

/-- The table-driven form of the update (R123). -/
def crcUpdateByTable (reflect : Bool) (r : Word) (b : Byte) : Word :=
  if reflect then (r >>> 8) ^^^ crcTable true ((r ^^^ zext32 b).setWidth 8)
  else (r <<< 8) ^^^ crcTable false (((r >>> 24) ^^^ zext32 b).setWidth 8)

/-- `compute(bytes)`: finalization of the fold of the update from the seed (R124). -/
def crcCompute (c : Config) (bytes : List Byte) : Word :=
  crcFinal c (bytes.foldl (crcUpdate c.crcReflect) crcSeed)

/-- CRC_INIT (R125): `S.crc_reg <- CRC_SEED`. -/
def execCrcInit (s : State) : Host.Outcome State Fault Refusal :=
  runCommand (fun b => b.setCrcReg crcSeed) s

/-- CRC_BYTE (R126): `S.crc_reg <- crc_update(S.crc_reg, B)`. -/
def execCrcByte (d : Byte) (s : State) : Host.Outcome State Fault Refusal :=
  runCommand (fun b => b.setCrcReg (crcUpdate s.config.crcReflect b.crcReg d)) s

/-- CRC_READ (R127): `S.res <- crc_final(S.crc_reg)`. -/
def execCrcRead (s : State) : Host.Outcome State Fault Refusal :=
  runCommand (fun b => b.setRes (crcFinal s.config b.crcReg)) s

/-- CRC_RAW (R128): `S.res <- S.crc_reg`. -/
def execCrcRaw (s : State) : Host.Outcome State Fault Refusal :=
  runCommand (fun b => b.setRes b.crcReg) s

end Sys2Proof.Machine
end

