-- ==== Sys2Proof/Machine/Hex.lean ====
section
/-! DEFINITION. The hex unit (spec/42_hex_codec.md R152 to R158): the five hex commands, and the
byte and word compositions they make. -/

namespace Sys2Proof.Machine

/-- `decode_byte`: two hex digits to a byte, the first the high nibble (R54, R152); `none` when either
is no hex digit. -/
def decodeByte (c1 c2 : Byte) : Option Byte :=
  match nib c1, nib c2 with
  | some h, some l => some (h ++ l)
  | _, _ => none

/-- HEX_DEC's effect (R152): A is checked before B, and an invalid character is raised with its index
and value. -/
def Block.hexDec (b : Block) (c1 c2 : Byte) : Block :=
  match nib c1 with
  | none => b.raise .invalidHexDigit 0#1 c1
  | some h =>
    match nib c2 with
    | none => b.raise .invalidHexDigit 1#1 c2
    | some l => b.setRes (zext32 (h ++ l))

/-- `min(cnt + 1, 8)` (R155). -/
def saturatingSucc (cnt : Fin 9) : Fin 9 := ⟨min (cnt.val + 1) 8, by omega⟩

/-- HEX_PUSH's effect (R155): the accumulator shifts left by one digit, and the count saturates at 8. -/
def Block.hexPush (b : Block) (c : Byte) : Block :=
  match nib c with
  | none => b.raise .invalidHexDigit 0#1 c
  | some n => b.setHex ((b.hexAcc <<< 4) ||| zext32 n) (saturatingSucc b.hexCnt)

/-- HEX_DEC (R152). -/
def execHexDec (c1 c2 : Byte) (s : State) : Host.Outcome State Fault Refusal :=
  runCommand (fun b => b.hexDec c1 c2) s

/-- HEX_ENC (R153): `res[15:8]` is the first character, `res[7:0]` the second, the rest 0. -/
def execHexEnc (d : Byte) (s : State) : Host.Outcome State Fault Refusal :=
  runCommand (fun b => b.setRes (zext32 (enc (highNibble d) ++ enc (lowNibble d)))) s

/-- HEX_CLR (R154): `S.hex_acc <- 0; S.hex_cnt <- 0`. -/
def execHexClr (s : State) : Host.Outcome State Fault Refusal :=
  runCommand (fun b => b.setHex 0#32 0) s

/-- HEX_PUSH (R155). -/
def execHexPush (c : Byte) (s : State) : Host.Outcome State Fault Refusal :=
  runCommand (fun b => b.hexPush c) s

/-- HEX_ACC (R156): `S.res <- S.hex_acc`. -/
def execHexAcc (s : State) : Host.Outcome State Fault Refusal :=
  runCommand (fun b => b.setRes b.hexAcc) s

end Sys2Proof.Machine
end

