-- ==== Sys2Proof/Machine/Scanner.lean ====
section
/-! DEFINITION. The scanner unit (spec/43_marker_scanner.md R180 to R188): the step of the two
counters, and the four scanner commands. -/

namespace Sys2Proof.Machine

/-- `scan_step` and SCAN_BYTE's write of `res` (R182, R186): both counters see the same byte, each on
its own literal, the position advances modulo 2^32, and the events go to `res`. -/
def Block.scanByte (b : Block) (d : Byte) : Block :=
  let m := litStep litMess b.messCnt d
  let k := litStep litMask b.maskCnt d
  ((b.setCounters m.1 k.1).setScanPos (b.scanPos + 1#32)).setRes (eventWord k.2 m.2)

/-- SCAN_CLR (R185): both counters and the position become 0. -/
def execScanClr (s : State) : Host.Outcome State Fault Refusal :=
  runCommand (fun b => (b.setCounters 0 0).setScanPos 0#32) s

/-- SCAN_BYTE (R186). -/
def execScanByte (d : Byte) (s : State) : Host.Outcome State Fault Refusal :=
  runCommand (fun b => b.scanByte d) s

/-- SCAN_SKIP (R187): the position advances modulo 2^32, and the counters stay. -/
def execScanSkip (s : State) : Host.Outcome State Fault Refusal :=
  runCommand (fun b => b.setScanPos (b.scanPos + 1#32)) s

/-- SCAN_POS (R188): `S.res <- S.scan_pos`. -/
def execScanPos (s : State) : Host.Outcome State Fault Refusal :=
  runCommand (fun b => b.setRes b.scanPos) s

end Sys2Proof.Machine
end

