-- ==== Sys2Proof/Machine/Dispatch.lean ====
section
/-! DEFINITION. One arm per command: the meaning that spec/30_encoding.md R73's rule column names. -/

namespace Sys2Proof.Machine

def exec (i : Instr) (s : State) : Host.Outcome State Fault Refusal :=
  match i with
  | .nop => Sys2Proof.Machine.execNop s
  | .sreset => Sys2Proof.Machine.execSreset s
  | .status => Sys2Proof.Machine.execStatus s
  | .crcInit => Sys2Proof.Machine.execCrcInit s
  | .crcByte b => Sys2Proof.Machine.execCrcByte b s
  | .crcRead => Sys2Proof.Machine.execCrcRead s
  | .crcRaw => Sys2Proof.Machine.execCrcRaw s
  | .hexDec a b => Sys2Proof.Machine.execHexDec a b s
  | .hexEnc b => Sys2Proof.Machine.execHexEnc b s
  | .hexClr => Sys2Proof.Machine.execHexClr s
  | .hexPush b => Sys2Proof.Machine.execHexPush b s
  | .hexAcc => Sys2Proof.Machine.execHexAcc s
  | .scanClr => Sys2Proof.Machine.execScanClr s
  | .scanByte b => Sys2Proof.Machine.execScanByte b s
  | .scanSkip => Sys2Proof.Machine.execScanSkip s
  | .scanPos => Sys2Proof.Machine.execScanPos s

end Sys2Proof.Machine
end

