-- ==== Sys2Proof/Machine/Step.lean ====
section
/-! DEFINITION. One step of the machine: the port's input of this step is consumed and acted on
(spec/30_encoding.md R70, spec/40_block_control.md R100). -/

namespace Sys2Proof.Machine

/-- One command word: R100's `step(S, cmd)`. The fault-state cases stand in the meanings, since every
command but STATUS and SRESET goes through `runCommand`. -/
def execWord (cmd : Word) (s : State) : Host.Outcome State Fault Refusal :=
  match decode cmd with
  | .command i => exec i s
  | .illegal => illegalCommand cmd s

/-- One step: a hardware reset, an idle cycle, or one command word (R70). -/
def step (s : State) : Host.Outcome State Fault Refusal :=
  match nextInput s with
  | (.hardReset, t) => hardReset t
  | (.idle, t) => idleCycle t
  | (.command cmd, t) => execWord cmd t

/-- `s` with the command of a table row presented at the port, so that the next step runs it. The
block fetches nothing (R32): presenting the word is how a command comes to run. Log entry 2. -/
def State.withFetchWord (s : State) (nbits w : Nat) : State := s.present (tableWord nbits w)

end Sys2Proof.Machine
end

