-- ==== Sys2Proof/Machine/Assembler.lean ====
section
/-! DEFINITION. The assembler (spec/30_encoding.md R78) and its pseudo-instructions (R79): a line to
the command words it stands for, or an assembly error. No assembled word is illegal, since every one
is the encoding of a command. Text-level details the spec leaves open are log entry 9. -/

namespace Sys2Proof.Machine

/-! ### Lines to commands -/

/-- The ASCII code of a character (R12, R78; log entry 10). -/
def charByte (c : Char) : Except AsmError Byte :=
  if c.toNat < 128 then .ok (BitVec.ofNat 8 c.toNat) else .error .operandRange

/-- An operand as one byte: a number in 0..255, or a character literal (R78). -/
def asmByte : AsmOperand → Except AsmError Byte
  | .number n => if n < 256 then .ok (BitVec.ofNat 8 n) else .error .operandRange
  | .char c => charByte c
  | .string _ => .error .operandKind

/-- A command with no operand (R78). -/
def asmNone (i : Instr) : List AsmOperand → Except AsmError (List Instr)
  | [] => .ok [i]
  | _ => .error .operandCount

/-- A command with one operand, assembled into B (R78). -/
def asmOne (mk : Byte → Instr) : List AsmOperand → Except AsmError (List Instr)
  | [o] => (asmByte o).map fun b => [mk b]
  | _ => .error .operandCount

/-- A command with two operands, assembled into A and B (R78). -/
def asmTwo (mk : Byte → Byte → Instr) : List AsmOperand → Except AsmError (List Instr)
  | [o1, o2] => (asmByte o1).bind fun a => (asmByte o2).map fun b => [mk a b]
  | _ => .error .operandCount

/-- One command per byte operand, in order; none if there is no operand (R79, CRC_BYTES). -/
def asmMany (mk : Byte → Instr) (os : List AsmOperand) : Except AsmError (List Instr) :=
  (os.mapM asmByte).map fun bs => bs.map mk

/-- A count of copies of one command (R79, CRC_ZEROS and SCAN_SKIPN). DESIGN CHOICE: the count is a
number and never a character literal (log entry 11). DEDUCED: it has no upper bound, as R79's `n ≥ 0`
says, although R78 keeps a command's operand in 0..255 (log entry 12). -/
def asmCopies (i : Instr) : List AsmOperand → Except AsmError (List Instr)
  | [.number n] => .ok (List.replicate n i)
  | [_] => .error .operandKind
  | _ => .error .operandCount

/-- One command per character of a string operand (R79). -/
def asmString (mk : Byte → Instr) : List AsmOperand → Except AsmError (List Instr)
  | [.string cs] => (cs.mapM charByte).map fun bs => bs.map mk
  | [_] => .error .operandKind
  | _ => .error .operandCount

/-- HEX_U32 takes exactly eight characters (R79). -/
def asmHexU32 (os : List AsmOperand) : Except AsmError (List Instr) :=
  (asmString .hexPush os).bind fun pushes =>
    if pushes.length = 8 then .ok (.hexClr :: pushes ++ [.hexAcc]) else .error .operandCount

/-- The commands a line stands for: itself for a mnemonic of R73, its expansion for one of R79. -/
def lineCommands (l : AsmLine) : Except AsmError (List Instr) :=
  match l.mnemonic with
  | "NOP" => asmNone .nop l.operands
  | "SRESET" => asmNone .sreset l.operands
  | "STATUS" => asmNone .status l.operands
  | "CRC_INIT" => asmNone .crcInit l.operands
  | "CRC_BYTE" => asmOne .crcByte l.operands
  | "CRC_READ" => asmNone .crcRead l.operands
  | "CRC_RAW" => asmNone .crcRaw l.operands
  | "HEX_DEC" => asmTwo .hexDec l.operands
  | "HEX_ENC" => asmOne .hexEnc l.operands
  | "HEX_CLR" => asmNone .hexClr l.operands
  | "HEX_PUSH" => asmOne .hexPush l.operands
  | "HEX_ACC" => asmNone .hexAcc l.operands
  | "SCAN_CLR" => asmNone .scanClr l.operands
  | "SCAN_BYTE" => asmOne .scanByte l.operands
  | "SCAN_SKIP" => asmNone .scanSkip l.operands
  | "SCAN_POS" => asmNone .scanPos l.operands
  | "CRC_BYTES" => asmMany .crcByte l.operands
  | "CRC_ZEROS" => asmCopies (.crcByte 0x00#8) l.operands
  | "CRC_COMPUTE" =>
    (asmMany .crcByte l.operands).map fun bytes => .crcInit :: bytes ++ [.crcRead]
  | "HEX_U32" => asmHexU32 l.operands
  | "SCAN_STR" => asmString .scanByte l.operands
  | "SCAN_SKIPN" => asmCopies .scanSkip l.operands
  | _ => .error .unknownMnemonic

/-- The command words of a line (R78, R79). -/
def assemble (l : AsmLine) : Except AsmError (List Word) :=
  (lineCommands l).map fun is => is.map encode

/-! ### Text to lines -/

/-- A token of a line's text. -/
inductive AsmToken where
  | name (cs : List Char)
  | comma
  | char (c : Char)
  | string (cs : List Char)
  deriving DecidableEq, Repr

/-- The token of the name read so far, if any characters were read. -/
def flushName : List Char → List AsmToken
  | [] => []
  | cs => [.name cs]

/-- The tokens of a line (R78): `;` starts a comment, commas separate, a quoted character or string is
one token, blanks end a name. `inString` holds the characters of an open string, `cur` those of an
open name. -/
def tokenize (inString : Option (List Char)) (cur : List Char) :
    List Char → Except AsmError (List AsmToken)
  | [] => if inString.isSome then .error .malformedLine else .ok (flushName cur)
  | c :: cs =>
    match inString with
    | some acc =>
      if c = '"' then (tokenize none [] cs).map fun ts => .string acc :: ts
      else tokenize (some (acc ++ [c])) [] cs
    | none =>
      if c = ';' then .ok (flushName cur)
      else if c = ',' then (tokenize none [] cs).map fun ts => flushName cur ++ .comma :: ts
      else if c = ' ' ∨ c = '\t' then (tokenize none [] cs).map fun ts => flushName cur ++ ts
      else if c = '"' then
        if cur = [] then tokenize (some []) [] cs else .error .malformedLine
      else if c = '\'' then
        match cs with
        | d :: e :: rest =>
          if e = '\'' ∧ cur = [] then (tokenize none [] rest).map fun ts => .char d :: ts
          else .error .malformedLine
        | _ => .error .malformedLine
      else tokenize none (cur ++ [c]) cs

/-- The value of a decimal or hexadecimal digit below the base. -/
def digitValue (base : Nat) (c : Char) : Except AsmError Nat :=
  match (charByte c).map nib with
  | .ok (some n) => if n.toNat < base then .ok n.toNat else .error .malformedLine
  | _ => .error .malformedLine

/-- A number in a base, from its digits, at least one. -/
def numberInBase (base : Nat) (cs : List Char) : Except AsmError Nat :=
  if cs = [] then .error .malformedLine
  else (cs.mapM (digitValue base)).map fun ds => ds.foldl (fun v d => v * base + d) 0

/-- A number, `0x`-prefixed hexadecimal or decimal (R78). -/
def parseNumber : List Char → Except AsmError Nat
  | '0' :: 'x' :: ds => numberInBase 16 ds
  | ds => numberInBase 10 ds

/-- One operand's token (R78, R79). -/
def parseOperand : AsmToken → Except AsmError AsmOperand
  | .name cs => (parseNumber cs).map AsmOperand.number
  | .char c => .ok (.char c)
  | .string cs => .ok (.string cs)
  | .comma => .error .malformedLine

/-- The operands of a line, separated by commas (R78). -/
def parseOperands : List AsmToken → Except AsmError (List AsmOperand)
  | [] => .ok []
  | [t] => (parseOperand t).map fun o => [o]
  | t :: .comma :: u :: rest =>
    (parseOperand t).bind fun o => (parseOperands (u :: rest)).map fun os => o :: os
  | _ => .error .malformedLine

/-- A line of tokens: nothing for a blank or comment line, else the mnemonic and its operands (R78). -/
def parseLine : List AsmToken → Except AsmError (Option AsmLine)
  | [] => .ok none
  | .name cs :: ts =>
    (parseOperands ts).map fun os => some { mnemonic := String.ofList cs, operands := os }
  | _ => .error .malformedLine

/-- The command words of one line of text (R78, R79). -/
def assembleText (text : List Char) : Except AsmError (List Word) :=
  ((tokenize none [] text).bind parseLine).bind fun
    | none => .ok []
    | some l => assemble l

/-- The command words of a listing, line after line (R78: one command per line). -/
def assembleListing (lines : List (List Char)) : Except AsmError (List Word) :=
  (lines.mapM assembleText).map List.flatten

end Sys2Proof.Machine
end

