-- ==== Sys2Proof/Safety.lean ====
section
/-! DEFINITION. The words claims are stated in: the modes of the block (spec/60_exceptions.md R212,
R221), runs (spec/70_reset_and_hazards.md R248), the unit and the result column of
spec/30_encoding.md R73, and the facts about reachable states beyond spec/10_state.md R36. A run is safe
when it meets no refusal, and its results count only when it ends outside the fault state (R248). -/

namespace Sys2Proof.Machine

/-- Outside the fault state, in a state that meets R36's invariant: every command acts (R100). -/
abbrev State.Running (s : State) : Prop := s.block.Invariant ∧ s.block.errCode = 0x00#8

/-- In the fault state (R212), in a state that meets R36's invariant. -/
abbrev State.Faulted (s : State) : Prop := s.block.Invariant ∧ s.block.errCode ≠ 0x00#8

/-- What the error fields hold in a reachable state (R102, R210, R213, R214): nothing when there is no
error, index 0 for IllegalCommand, and a byte that is no hex digit for InvalidHexDigit. -/
abbrev Block.ErrorContext (b : Block) : Prop :=
  (b.errCode = 0x00#8 → b.errIdx = 0#1 ∧ b.errData = 0x00#8) ∧
  (b.errCode = 0x07#8 → b.errIdx = 0#1) ∧
  (b.errCode = 0x02#8 → nib b.errData = none)

/-- A reachable accumulator holds no more than the digits pushed: "fewer digits zero-extended when
`hex_cnt < 8`" (R155). -/
abbrev Block.HexFits (b : Block) : Prop := b.hexAcc.toNat < 16 ^ b.hexCnt.val

/-- A run (R248): the words applied in order by R100's step, stopping at a refusal. -/
def runWords : List Word → State → Host.Outcome State Fault Refusal
  | [], s => .next s
  | w :: ws, s =>
    match execWord w s with
    | .next t => runWords ws t
    | .fault r => .fault r
    | .refused r => .refused r

/-- The words of a sequence of commands. -/
def words (is : List Instr) : List Word := is.map encode

/-- The units of the block (R73). -/
inductive CommandUnit where
  | block
  | crc
  | hex
  | scanner
  deriving DecidableEq, Repr

/-- The unit of each command (R73's unit column). -/
def unitOf : Instr → CommandUnit
  | .nop | .sreset | .status => .block
  | .crcInit | .crcByte _ | .crcRead | .crcRaw => .crc
  | .hexDec _ _ | .hexEnc _ | .hexClr | .hexPush _ | .hexAcc => .hex
  | .scanClr | .scanByte _ | .scanSkip | .scanPos => .scanner

/-- The commands that write a result to `res` (R73's result column, R245); SRESET only resets it. -/
def writesResult : Instr → Bool
  | .status | .crcRead | .crcRaw | .hexDec _ _ | .hexEnc _ | .hexAcc | .scanByte _ | .scanPos => true
  | .nop | .sreset | .crcInit | .crcByte _ | .hexClr | .hexPush _ | .scanClr | .scanSkip => false

/-- The read commands of R58. -/
def isRead : Instr → Bool
  | .status | .crcRead | .crcRaw | .hexAcc | .scanPos => true
  | .nop | .sreset | .crcInit | .crcByte _ | .hexDec _ _ | .hexEnc _ | .hexClr | .hexPush _
  | .scanClr | .scanByte _ | .scanSkip => false

/-- Two states that differ at most in the scanner's own fields (R37). -/
def sameButScanner (s t : State) : Prop :=
  t = { s with block :=
    { s.block with messCnt := t.block.messCnt, maskCnt := t.block.maskCnt, scanPos := t.block.scanPos } }

/-- Two outcomes that are next states differing at most in the scanner's own fields. -/
def outcomesSameButScanner (x y : Host.Outcome State Fault Refusal) : Prop :=
  ∃ s t, x = .next s ∧ y = .next t ∧ sameButScanner s t

end Sys2Proof.Machine
end

