-- ==== Sys2Proof/Certificates/Slice0/Obligations.lean ====
section
/-! DEFINITION. The statements for the provers. `State.Running` is a state outside the fault state and
`State.Faulted` one in it, both meeting spec/10_state.md R36's invariant. A conclusion
`exec i s = .next { s with block := { s.block with f := v } }` says what the command writes and, by the
record update, that every other field, the parameters and the host's inputs are unchanged; the block
has no memory (spec/20_memory.md R50). -/

open Sys2Proof Sys2Proof.Machine

/-! ### Words and commands -/

/-- R71, R73: the decoder gives back every command from its word, with every operand at every value. -/
def Obligations.DecodeOfEncodedCommand : Prop := ∀ i : Instr, decode (encode i) = .command i

/-- R73, R75: a word that decodes to a command is that command's one encoding, so no bit of it is
ignored. -/
def Obligations.DecodedWordIsItsEncoding : Prop :=
  ∀ (w : Word) (i : Instr), decode w = .command i → encode i = w

/-- R76: the decoder answers the one row of the opcode table that matches the word, or `illegal` when
none does. -/
def Obligations.DecodeAgreesWithOpcodeTable : Prop :=
  ∀ w : Word,
    (∃ i r, decode w = .command i ∧ r ∈ opcodeTable ∧ r.accepts w = true ∧
        (∀ r' ∈ opcodeTable, r'.accepts w = true → r' = r) ∧
        r.matchWord = i.opcode.setWidth 32 <<< 24) ∨
      (decode w = .illegal ∧ legal w = false ∧ ∀ r ∈ opcodeTable, r.accepts w = false)

/-- R75: which words are illegal, and what executing one does in and out of the fault state. -/
def Obligations.IllegalWordsRaise : Prop :=
  ∀ w : Word,
    (decode w = .illegal ↔
      opField w ∉ [0x00#8, 0x01#8, 0x02#8, 0x10#8, 0x11#8, 0x12#8, 0x13#8, 0x20#8, 0x21#8, 0x22#8,
          0x23#8, 0x24#8, 0x30#8, 0x31#8, 0x32#8, 0x33#8] ∨
        rsvField w ≠ 0#8 ∨ (opField w ≠ 0x20#8 ∧ aField w ≠ 0#8) ∨
        (opField w ∉ [0x11#8, 0x20#8, 0x21#8, 0x23#8, 0x31#8] ∧ bField w ≠ 0#8)) ∧
    (decode w = .illegal → ∀ s : State,
      (s.Running → execWord w s = .next { s with block :=
        { s.block with errCode := 0x07#8, errIdx := 0#1, errData := w.extractLsb' 24 8 } }) ∧
      (s.Faulted → execWord w s = .next s))

/-- R78's four example words, and four of the other opcodes of R73, decode to the commands they stand
for. -/
def Obligations.SpecWordsDecode : Prop :=
  decode 0x110000DE#32 = .command (.crcByte 0xDE#8) ∧
  decode 0x20004445#32 = .command (.hexDec 0x44#8 0x45#8) ∧
  decode 0x3100006D#32 = .command (.scanByte 0x6D#8) ∧
  decode 0x02000000#32 = .command .status ∧
  decode 0x01000000#32 = .command .sreset ∧
  decode 0x210000DE#32 = .command (.hexEnc 0xDE#8) ∧
  decode 0x23000046#32 = .command (.hexPush 0x46#8) ∧
  decode 0x33000000#32 = .command .scanPos

/-! ### The step and the command cycle -/

/-- R70: a step whose input is a word that decodes to a command is that command at the state with the
input consumed. The port's list is the model's choice (log entry 2, DESIGN CHOICE). -/
def Obligations.StepRunsPresentedCommand : Prop :=
  ∀ (s : State) (w : Word) (i : Instr) (rest : List PortInput),
    s.port = .command w :: rest → decode w = .command i →
    step s = exec i { s with port := rest }

/-- R240: the reset action sets every field to its reset value, and the hardware reset and SRESET
apply it with identical effect, in the fault state too. How the two are presented is the model's choice
(log entries 2 and 7, DESIGN CHOICE). -/
def Obligations.ResetActionSetsEveryField : Prop :=
  ∀ (s : State) (rest : List PortInput), s.block.Invariant →
    let resetBlock : Block :=
      { crcReg := 0xFFFFFFFF#32, hexAcc := 0#32, hexCnt := 0, messCnt := 0, maskCnt := 0,
        scanPos := 0#32, res := 0#32, errCode := 0x00#8, errIdx := 0#1, errData := 0x00#8 }
    (s.port = .hardReset :: rest → step s = .next { s with block := resetBlock, port := rest }) ∧
    (s.port = .command 0x01000000#32 :: rest →
      step s = .next { s with block := resetBlock, port := rest })

/-- R226: with no command presented, the block holds all its state unchanged. That the port's list may
be empty or hold an idle input is the model's choice (log entries 2 and 7, DESIGN CHOICE). -/
def Obligations.IdleStepHoldsState : Prop :=
  ∀ (s : State) (rest : List PortInput), s.block.Invariant →
    (s.port = [] → step s = .next s) ∧
    (s.port = .idle :: rest → step s = .next { s with port := rest })

/-- R248: stepping the machine over the words the host has presented is R248's run of them. The port's
list is the model's choice (log entry 2, DESIGN CHOICE). -/
def Obligations.RunIsStepsOverThePort : Prop :=
  ∀ (ws : List Word) (s : State) (rest : List PortInput),
    s.port = ws.map PortInput.command ++ rest →
    core.run ws.length s = runWords ws { s with port := rest }

/-- R100: the command cycle, case by case in the spec's order. -/
def Obligations.CommandCycleCases : Prop :=
  ∀ (s : State) (w : Word), s.block.Invariant →
    execWord w s =
      if w = 0x01000000#32 then .next { s with block := Block.reset }
      else if s.block.errCode ≠ 0x00#8 then
        if w = 0x02000000#32 then
          .next { s with block := { s.block with res := s.block.statusWord } }
        else .next s
      else
        match decode w with
        | .illegal => .next { s with block :=
            { s.block with errCode := 0x07#8, errIdx := 0#1, errData := w.extractLsb' 24 8 } }
        | .command i => exec i s

/-- R70, R100 and R247: the block never refuses or delays a command. `cmd_ready` is 1 and the `res`
output is `S.res` in every state, and from a state that meets the invariant every step, every word and
every command has a next state. -/
def Obligations.EveryStepIsDefined : Prop :=
  ∀ s : State,
    s.cmdReady = true ∧ s.resOutput = s.block.res ∧
    (s.block.Invariant →
      (∃ t, step s = .next t) ∧ (∀ w : Word, ∃ t, execWord w s = .next t) ∧
        ∀ i : Instr, ∃ t, exec i s = .next t)

/-! ### Errors and the fault state -/

/-- R212: the fault output is 1 exactly when `err_code` is not 0. In the fault state STATUS writes
`res`, SRESET resets, and every other word, legal or illegal, has no effect. -/
def Obligations.FaultStateIgnoresOtherWords : Prop :=
  ∀ s : State,
    (s.faultOutput = true ↔ s.block.errCode ≠ 0x00#8) ∧
    (s.Faulted →
      execWord 0x02000000#32 s = .next { s with block := { s.block with res := s.block.statusWord } } ∧
      execWord 0x01000000#32 s = .next { s with block := Block.reset } ∧
      ∀ w : Word, w ≠ 0x02000000#32 → w ≠ 0x01000000#32 → execWord w s = .next s)

/-- R212, R220: no step leaves the fault state, or changes what the first error recorded, except the
hardware reset and SRESET, which leave `reset_state`. How the two are presented is the model's choice
(log entries 2 and 7, DESIGN CHOICE). -/
def Obligations.FaultStateLeftOnlyByReset : Prop :=
  ∀ s t : State, s.block.errCode ≠ 0x00#8 → step s = .next t →
    (t.block.errCode = s.block.errCode ∧ t.block.errIdx = s.block.errIdx ∧
      t.block.errData = s.block.errData) ∨
    (t.block = Block.reset ∧
      (s.port.head? = some .hardReset ∨ s.port.head? = some (.command 0x01000000#32)))

/-- R211, R219: a word that raises changes the three error fields and nothing else, whatever the
word. -/
def Obligations.RaisingWordHasNoOtherEffect : Prop :=
  ∀ (s t : State) (w : Word), s.Running → execWord w s = .next t → t.block.errCode ≠ 0x00#8 →
    t = { s with block := { s.block with
      errCode := t.block.errCode, errIdx := t.block.errIdx, errData := t.block.errData } }

/-- R213, R214, R218: exactly which words raise which error from a state outside the fault state, and
what each records. -/
def Obligations.CauseOfEachError : Prop :=
  ∀ (s t : State) (w : Word), s.Running → execWord w s = .next t →
    (t.block.errCode = 0x07#8 ↔ decode w = .illegal) ∧
    (t.block.errCode = 0x02#8 ↔
      (∃ a b, decode w = .command (.hexDec a b) ∧ (nib a = none ∨ nib b = none)) ∨
      (∃ b, decode w = .command (.hexPush b) ∧ nib b = none)) ∧
    (t.block.errCode = 0x07#8 → t.block.errIdx = 0#1 ∧ t.block.errData = w.extractLsb' 24 8) ∧
    (∀ a b, decode w = .command (.hexDec a b) → nib a = none →
      t.block.errIdx = 0#1 ∧ t.block.errData = a) ∧
    (∀ a b, decode w = .command (.hexDec a b) → nib a ≠ none → nib b = none →
      t.block.errIdx = 1#1 ∧ t.block.errData = b) ∧
    (∀ b, decode w = .command (.hexPush b) → nib b = none →
      t.block.errIdx = 0#1 ∧ t.block.errData = b)

/-! ### Invariants -/

/-- R35, R36: every step keeps the ranges of the counters, the counter pair among the eight, and the
error code among the three. The ranges are spelt out although the fields' types give them. -/
def Obligations.StepKeepsInvariant : Prop :=
  ∀ s t : State, s.block.Invariant → step s = .next t →
    t.block.messCnt.val ≤ 4 ∧ t.block.maskCnt.val ≤ 4 ∧ t.block.hexCnt.val ≤ 8 ∧
    (t.block.messCnt.val, t.block.maskCnt.val) ∈
      [(0, 0), (1, 1), (2, 0), (3, 0), (4, 0), (0, 2), (0, 3), (0, 4)] ∧
    t.block.errCode ∈ [0x00#8, 0x02#8, 0x07#8] ∧ t.block.Invariant

/-- R102, R210, R213, R214: every step keeps the error fields as a reachable state has them: zero when
there is no error, index 0 for IllegalCommand, a byte that is no hex digit for InvalidHexDigit. -/
def Obligations.StepKeepsErrorContext : Prop :=
  ∀ s t : State, s.block.ErrorContext → step s = .next t → t.block.ErrorContext

/-- R155: every step keeps the accumulator within the digits counted. -/
def Obligations.StepKeepsHexFits : Prop :=
  ∀ s t : State, s.block.HexFits → step s = .next t → t.block.HexFits

/-- R36, R240, R241: the state after reset has every field at its reset value, meets the three
invariants and is outside the fault state with `res` zero, and its STATUS word is zero. -/
def Obligations.ResetStateMeetsInvariants : Prop :=
  State.reset.block =
    { crcReg := 0xFFFFFFFF#32, hexAcc := 0#32, hexCnt := 0, messCnt := 0, maskCnt := 0,
      scanPos := 0#32, res := 0#32, errCode := 0x00#8, errIdx := 0#1, errData := 0x00#8 } ∧
  State.reset.block.Invariant ∧ State.reset.block.ErrorContext ∧ State.reset.block.HexFits ∧
  State.reset.Running ∧ State.reset.faultOutput = false ∧ State.reset.resOutput = 0#32 ∧
  State.reset.block.statusWord = 0x00000000#32

/-- R36: a state that breaks the invariant has no successor, whatever the host presents. -/
def Obligations.BrokenInvariantIsRefused : Prop :=
  ∀ s : State, ¬ s.block.Invariant →
    step s = .refused .invariantViolated ∧
    (∀ w : Word, execWord w s = .refused .invariantViolated) ∧
    ∀ i : Instr, exec i s = .refused .invariantViolated

/-! ### What a command leaves unchanged -/

/-- R21 to R30: each field has only the writers its rule names; a raise writes the error fields. -/
def Obligations.EachFieldHasOnlyItsWriters : Prop :=
  ∀ (i : Instr) (s t : State), exec i s = .next t → i ≠ .sreset →
    (i ≠ .crcInit → (∀ b, i ≠ .crcByte b) → t.block.crcReg = s.block.crcReg) ∧
    (i ≠ .hexClr → (∀ b, i ≠ .hexPush b) →
      t.block.hexAcc = s.block.hexAcc ∧ t.block.hexCnt = s.block.hexCnt) ∧
    (i ≠ .scanClr → (∀ b, i ≠ .scanByte b) →
      t.block.messCnt = s.block.messCnt ∧ t.block.maskCnt = s.block.maskCnt) ∧
    (i ≠ .scanClr → (∀ b, i ≠ .scanByte b) → i ≠ .scanSkip → t.block.scanPos = s.block.scanPos) ∧
    (writesResult i = false → t.block.res = s.block.res) ∧
    ((∀ a b, i ≠ .hexDec a b) → (∀ b, i ≠ .hexPush b) →
      t.block.errCode = s.block.errCode ∧ t.block.errIdx = s.block.errIdx ∧
      t.block.errData = s.block.errData)

/-- R37: a command of one unit never changes another unit's state, and NOP and STATUS change none. -/
def Obligations.UnitsAreDisjoint : Prop :=
  ∀ (i : Instr) (s t : State), exec i s = .next t → i ≠ .sreset →
    (unitOf i ≠ .crc → t.block.crcReg = s.block.crcReg) ∧
    (unitOf i ≠ .hex → t.block.hexAcc = s.block.hexAcc ∧ t.block.hexCnt = s.block.hexCnt) ∧
    (unitOf i ≠ .scanner → t.block.messCnt = s.block.messCnt ∧
      t.block.maskCnt = s.block.maskCnt ∧ t.block.scanPos = s.block.scanPos)

/-- R37: the scanner's state is read by no command but its own and STATUS: two runs of one sequence of
other words, from states that differ only in it, end in states that differ only in it. -/
def Obligations.ScannerStateIsInvisible : Prop :=
  ∀ (ws : List Word) (s t : State), s.block.Invariant → t.block.Invariant → sameButScanner s t →
    (∀ w ∈ ws, ∀ i, decode w = .command i → unitOf i ≠ .scanner ∧ i ≠ .status) →
    outcomesSameButScanner (runWords ws s) (runWords ws t)

/-- R20 and log entries 1 and 2: no step changes the parameters, and a step takes exactly the first
input from the port. -/
def Obligations.StepKeepsParameters : Prop :=
  ∀ s t : State, step s = .next t → t.config = s.config ∧ t.port = s.port.tail

/-- R58: a read command has no effect but its write of `res`, and repeating it gives the same
result. -/
def Obligations.ReadsHaveNoSideEffect : Prop :=
  ∀ (i : Instr) (s t : State), isRead i = true → exec i s = .next t →
    t = { s with block := { s.block with res := t.block.res } } ∧ exec i t = .next t

/-! ### Block control -/

/-- R101: NOP changes no field, in the fault state too, and only the word 0x00000000 is NOP. -/
def Obligations.NopChangesNothing : Prop :=
  (∀ w : Word, decode w = .command .nop ↔ w = 0x00000000#32) ∧
  ∀ s : State, s.block.Invariant → exec .nop s = .next s

/-- R103: SRESET leaves `reset_state` from every state that meets R36's invariant, the fault state
included (R36: "Every rule in this spec presumes the invariant"). -/
def Obligations.SresetLoadsResetState : Prop :=
  (∀ w : Word, decode w = .command .sreset ↔ w = 0x01000000#32) ∧
  ∀ s : State, s.block.Invariant → exec .sreset s = .next { s with block :=
    { crcReg := 0xFFFFFFFF#32, hexAcc := 0#32, hexCnt := 0, messCnt := 0, maskCnt := 0,
      scanPos := 0#32, res := 0#32, errCode := 0x00#8, errIdx := 0#1, errData := 0x00#8 } }

/-- R102, R34: STATUS writes `res` with a word that holds each field of R34's layout, in the fault
state too. -/
def Obligations.StatusWritesStatusWord : Prop :=
  (∀ w : Word, decode w = .command .status ↔ w = 0x02000000#32) ∧
  ∀ s : State, s.block.Invariant → ∃ v : Word,
    exec .status s = .next { s with block := { s.block with res := v } } ∧
    v.extractLsb' 0 8 = s.block.errCode ∧
    (v.extractLsb' 8 4).toNat = s.block.hexCnt.val ∧
    (v.extractLsb' 12 3).toNat = s.block.messCnt.val ∧
    v.extractLsb' 15 1 = 0#1 ∧
    (v.extractLsb' 16 3).toNat = s.block.maskCnt.val ∧
    v.extractLsb' 19 4 = 0#4 ∧
    v.extractLsb' 23 1 = s.block.errIdx ∧
    v.extractLsb' 24 8 = s.block.errData

/-! ### The CRC unit -/

/-- R125: CRC_INIT loads the seed and writes nothing else. -/
def Obligations.CrcInitLoadsSeed : Prop :=
  encode .crcInit = 0x10000000#32 ∧
  ∀ s : State,
    (s.Running → exec .crcInit s = .next { s with block := { s.block with crcReg := 0xFFFFFFFF#32 } }) ∧
    (s.Faulted → exec .crcInit s = .next s)

/-- R126, R121: CRC_BYTE folds one byte into the register by R121's eight bit steps, in the direction
CRC_REFLECT names, for every byte. -/
def Obligations.CrcByteFoldsByte : Prop :=
  ∀ (d : Byte) (s : State),
    encode (.crcByte d) = 0x11#8 ++ 0x00#8 ++ 0x00#8 ++ d ∧
    (s.Running → exec (.crcByte d) s = .next { s with
      block := { s.block with
        crcReg :=
          if s.config.crcReflect then
            Nat.iterate (fun r : Word => if r.getLsbD 0 then (r >>> 1) ^^^ 0xEDB88320#32 else r >>> 1) 8
              (s.block.crcReg ^^^ d.setWidth 32)
          else
            Nat.iterate (fun r : Word => if r.getLsbD 31 then (r <<< 1) ^^^ 0x04C11DB7#32 else r <<< 1) 8
              (s.block.crcReg ^^^ (d.setWidth 32 <<< 24)) } }) ∧
    (s.Faulted → exec (.crcByte d) s = .next s)

/-- R127, R122: CRC_READ writes the register XORed with CRC_XOROUT to `res` and nothing else. -/
def Obligations.CrcReadFinalizes : Prop :=
  encode .crcRead = 0x12000000#32 ∧
  ∀ s : State,
    (s.Running → exec .crcRead s = .next { s with block :=
      { s.block with res := s.block.crcReg ^^^ s.config.crcXorOut } }) ∧
    (s.Faulted → exec .crcRead s = .next s)

/-- R128: CRC_RAW writes the unfinalized register to `res` and nothing else. -/
def Obligations.CrcRawReadsRegister : Prop :=
  encode .crcRaw = 0x13000000#32 ∧
  ∀ s : State,
    (s.Running → exec .crcRaw s = .next { s with block := { s.block with res := s.block.crcReg } }) ∧
    (s.Faulted → exec .crcRaw s = .next s)

/-- R123: the table-driven form gives the bitwise form's value for every register, byte and
direction. -/
def Obligations.CrcTableFormAgrees : Prop :=
  ∀ (reflect : Bool) (r : Word) (b : Byte), crcUpdateByTable reflect r b = crcUpdate reflect r b

/-- R10, R120, R121: the reflected update is the direct update seen in reversed bit order. -/
def Obligations.CrcDirectionsMirror : Prop :=
  ∀ (r : Word) (b : Byte),
    crcUpdate true r b = bitrev32 (crcUpdate false (bitrev32 r) b.reverse)

/-- R129: the update is linear over GF(2) in the register and the byte together. -/
def Obligations.CrcUpdateIsLinear : Prop :=
  ∀ (reflect : Bool) (r r' : Word) (b b' : Byte),
    crcUpdate reflect (r ^^^ r') (b ^^^ b') = crcUpdate reflect r b ^^^ crcUpdate reflect r' b'

/-- R124: CRC_INIT, one CRC_BYTE per byte and CRC_READ leave `res` = `compute(bytes)`, the finalized
fold from the seed, for every byte sequence, the empty one included, and change nothing else but the
register. -/
def Obligations.CrcCommandsCompute : Prop :=
  ∀ (s : State) (bytes : List Byte), s.Running →
    runWords (words (.crcInit :: bytes.map Instr.crcByte ++ [.crcRead])) s =
      .next { s with block := { s.block with
        crcReg := bytes.foldl (crcUpdate s.config.crcReflect) 0xFFFFFFFF#32
        res := bytes.foldl (crcUpdate s.config.crcReflect) 0xFFFFFFFF#32 ^^^ s.config.crcXorOut } }

/-- R127: a CRC_READ in the middle of a sequence gives the checksum of the prefix, and further
CRC_BYTEs continue the same sequence. -/
def Obligations.CrcReadGivesPrefix : Prop :=
  ∀ (s : State) (p q : List Byte), s.Running → ∃ t u : State,
    runWords (words (.crcInit :: p.map Instr.crcByte ++ [.crcRead])) s = .next t ∧
    t.block.res = crcCompute s.config p ∧
    runWords (words (q.map Instr.crcByte ++ [.crcRead])) t = .next u ∧
    u.block.res = crcCompute s.config (p ++ q)

/-- R130: `compute` of the nine bytes `123456789` and of the empty sequence under the four parameter
combinations. -/
def Obligations.CrcCheckValues : Prop :=
  let digits : List Byte := [0x31#8, 0x32#8, 0x33#8, 0x34#8, 0x35#8, 0x36#8, 0x37#8, 0x38#8, 0x39#8]
  crcCompute { crcReflect := true, crcXorOut := 0xFFFFFFFF#32 } digits = 0xCBF43926#32 ∧
  crcCompute { crcReflect := true, crcXorOut := 0#32 } digits = 0x340BC6D9#32 ∧
  crcCompute { crcReflect := false, crcXorOut := 0xFFFFFFFF#32 } digits = 0xFC891918#32 ∧
  crcCompute { crcReflect := false, crcXorOut := 0#32 } digits = 0x0376E6E7#32 ∧
  crcCompute { crcReflect := true, crcXorOut := 0xFFFFFFFF#32 } [] = 0x00000000#32 ∧
  crcCompute { crcReflect := true, crcXorOut := 0#32 } [] = 0xFFFFFFFF#32 ∧
  crcCompute { crcReflect := false, crcXorOut := 0xFFFFFFFF#32 } [] = 0x00000000#32 ∧
  crcCompute { crcReflect := false, crcXorOut := 0#32 } [] = 0xFFFFFFFF#32

/-! ### The hex unit -/

/-- R150, R151: the value of every byte as a hex digit, range by range, and the digit of every
nibble. -/
def Obligations.HexDigitFunctions : Prop :=
  (∀ c : Byte, nib c =
    if 0x30 ≤ c.toNat ∧ c.toNat ≤ 0x39 then some (BitVec.ofNat 4 (c.toNat - 0x30))
    else if 0x41 ≤ c.toNat ∧ c.toNat ≤ 0x46 then some (BitVec.ofNat 4 (c.toNat - 0x37))
    else if 0x61 ≤ c.toNat ∧ c.toNat ≤ 0x66 then some (BitVec.ofNat 4 (c.toNat - 0x57))
    else none) ∧
  (∀ n : Nibble, (enc n).toNat = if n.toNat ≤ 9 then 0x30 + n.toNat else 0x57 + n.toNat) ∧
  (∀ n : Nibble, nib (enc n) = some n)

/-- R152: HEX_DEC writes the byte of two hex digits, the first the high nibble; an invalid A is raised
with index 0, and an invalid B after a valid A with index 1. -/
def Obligations.HexDecDecodesOrRaises : Prop :=
  ∀ (a b : Byte) (s : State),
    encode (.hexDec a b) = 0x20#8 ++ 0x00#8 ++ a ++ b ∧
    (s.Running → ∀ h l : Nibble, nib a = some h → nib b = some l →
      exec (.hexDec a b) s = .next { s with block :=
        { s.block with res := BitVec.ofNat 32 (h.toNat * 16 + l.toNat) } }) ∧
    (s.Running → nib a = none → exec (.hexDec a b) s = .next { s with block :=
      { s.block with errCode := 0x02#8, errIdx := 0#1, errData := a } }) ∧
    (s.Running → ∀ h : Nibble, nib a = some h → nib b = none →
      exec (.hexDec a b) s = .next { s with block :=
        { s.block with errCode := 0x02#8, errIdx := 1#1, errData := b } }) ∧
    (s.Faulted → exec (.hexDec a b) s = .next s)

/-- R153: HEX_ENC writes the two lowercase digits of the byte, the high nibble's in bits [15:8]. -/
def Obligations.HexEncWritesDigits : Prop :=
  ∀ (d : Byte) (s : State),
    encode (.hexEnc d) = 0x21#8 ++ 0x00#8 ++ 0x00#8 ++ d ∧
    (s.Running → ∃ v : Word,
      exec (.hexEnc d) s = .next { s with block := { s.block with res := v } } ∧
      v.extractLsb' 8 8 = enc (d.extractLsb' 4 4) ∧ v.extractLsb' 0 8 = enc (d.extractLsb' 0 4) ∧
      v.extractLsb' 16 16 = 0#16) ∧
    (s.Faulted → exec (.hexEnc d) s = .next s)

/-- R154: HEX_CLR clears the accumulator and the count and writes nothing else. -/
def Obligations.HexClrClearsAccumulator : Prop :=
  encode .hexClr = 0x22000000#32 ∧
  ∀ s : State,
    (s.Running → exec .hexClr s = .next { s with block :=
      { s.block with hexAcc := 0x00000000#32, hexCnt := 0 } }) ∧
    (s.Faulted → exec .hexClr s = .next s)

/-- R155: HEX_PUSH shifts one digit into the accumulator modulo 2^32 and counts it up to 8; a
character that is no hex digit is raised with index 0 and changes neither. -/
def Obligations.HexPushShiftsOrRaises : Prop :=
  ∀ (c : Byte) (s : State),
    encode (.hexPush c) = 0x23#8 ++ 0x00#8 ++ 0x00#8 ++ c ∧
    (s.Running → ∀ n : Nibble, nib c = some n → ∃ cnt : Fin 9,
      cnt.val = min (s.block.hexCnt.val + 1) 8 ∧
      exec (.hexPush c) s = .next { s with block :=
        { s.block with
          hexAcc := BitVec.ofNat 32 (s.block.hexAcc.toNat * 16 + n.toNat), hexCnt := cnt } }) ∧
    (s.Running → nib c = none → exec (.hexPush c) s = .next { s with block :=
      { s.block with errCode := 0x02#8, errIdx := 0#1, errData := c } }) ∧
    (s.Faulted → exec (.hexPush c) s = .next s)

/-- R156: HEX_ACC writes the accumulator to `res` and nothing else. -/
def Obligations.HexAccReadsAccumulator : Prop :=
  encode .hexAcc = 0x24000000#32 ∧
  ∀ s : State,
    (s.Running → exec .hexAcc s = .next { s with block := { s.block with res := s.block.hexAcc } }) ∧
    (s.Faulted → exec .hexAcc s = .next s)

/-- R159: encoding a byte and decoding its two characters gives the byte back; decoding two digits and
encoding the byte gives their lowercase forms. -/
def Obligations.HexRoundTrips : Prop :=
  ∀ s : State, s.Running →
    (∀ b : Byte, ∃ t u : State, exec (.hexEnc b) s = .next t ∧
      exec (.hexDec (t.block.res.extractLsb' 8 8) (t.block.res.extractLsb' 0 8)) t = .next u ∧
      u.block.res = b.setWidth 32) ∧
    (∀ c1 c2 : Byte, nib c1 ≠ none → nib c2 ≠ none →
      let lower : Byte → Byte := fun c => if 0x41 ≤ c.toNat ∧ c.toNat ≤ 0x46 then c + 0x20#8 else c
      ∃ t u : State, exec (.hexDec c1 c2) s = .next t ∧
        exec (.hexEnc (t.block.res.extractLsb' 0 8)) t = .next u ∧
        u.block.res.extractLsb' 8 8 = lower c1 ∧ u.block.res.extractLsb' 0 8 = lower c2)

/-- R155: after HEX_CLR, any number of pushed digits leaves the accumulator at their value modulo 2^32,
which is the last eight digits, and the count at their number up to 8. -/
def Obligations.PushedDigitsFillAccumulator : Prop :=
  ∀ (s : State) (cs : List Byte) (ns : List Nibble), s.Running → cs.mapM nib = some ns →
    ∃ cnt : Fin 9, cnt.val = min cs.length 8 ∧
      runWords (words (.hexClr :: cs.map Instr.hexPush)) s = .next { s with block := { s.block with
        hexAcc := BitVec.ofNat 32 (ns.foldl (fun v n => v * 16 + n.toNat) 0), hexCnt := cnt } } ∧
      (8 ≤ ns.length →
        BitVec.ofNat 32 (ns.foldl (fun v n => v * 16 + n.toNat) 0) =
          BitVec.ofNat 32 ((ns.drop (ns.length - 8)).foldl (fun v n => v * 16 + n.toNat) 0))

/-- R157, R53: HEX_CLR, eight pushes and HEX_ACC leave `res` with the four decoded bytes in big-endian
order. -/
def Obligations.DecodeU32IsBigEndian : Prop :=
  ∀ (s : State) (c0 c1 c2 c3 c4 c5 c6 c7 b0 b1 b2 b3 : Byte), s.Running →
    decodeByte c0 c1 = some b0 → decodeByte c2 c3 = some b1 → decodeByte c4 c5 = some b2 →
    decodeByte c6 c7 = some b3 →
    runWords (words [.hexClr, .hexPush c0, .hexPush c1, .hexPush c2, .hexPush c3, .hexPush c4,
        .hexPush c5, .hexPush c6, .hexPush c7, .hexAcc]) s =
      .next { s with block := { s.block with
        hexAcc := b0 ++ b1 ++ b2 ++ b3, hexCnt := 8, res := b0 ++ b1 ++ b2 ++ b3 } }

/-- R157, R100: the first invalid digit of a sequence raises at that digit, and the rest of the
sequence then has no effect. -/
def Obligations.InvalidDigitStopsDecode : Prop :=
  ∀ (s : State) (cs ds : List Byte) (ns : List Nibble) (c : Byte), s.Running →
    cs.mapM nib = some ns → nib c = none →
    ∃ t : State, runWords (words (.hexClr :: cs.map Instr.hexPush)) s = .next t ∧
      runWords (words (.hexClr :: cs.map Instr.hexPush ++ .hexPush c :: ds.map Instr.hexPush
        ++ [.hexAcc])) s =
      .next { t with block := { t.block with errCode := 0x02#8, errIdx := 0#1, errData := c } }

/-- R158, R53: the eight characters HEX_ENC gives for the four bytes of a word, high byte first, are
lowercase hex digits, and decoding them gives the word back. -/
def Obligations.EncodeU32MirrorsDecode : Prop :=
  ∀ (v : Word) (s : State), s.Running → ∃ t0 t1 t2 t3 u : State,
    exec (.hexEnc (v.extractLsb' 24 8)) s = .next t0 ∧
    exec (.hexEnc (v.extractLsb' 16 8)) t0 = .next t1 ∧
    exec (.hexEnc (v.extractLsb' 8 8)) t1 = .next t2 ∧
    exec (.hexEnc (v.extractLsb' 0 8)) t2 = .next t3 ∧
    let cs : List Byte := [t0, t1, t2, t3].flatMap fun t =>
      [t.block.res.extractLsb' 8 8, t.block.res.extractLsb' 0 8]
    (∀ c ∈ cs, (0x30 ≤ c.toNat ∧ c.toNat ≤ 0x39) ∨ (0x61 ≤ c.toNat ∧ c.toNat ≤ 0x66)) ∧
    runWords (words (.hexClr :: cs.map Instr.hexPush ++ [.hexAcc])) t3 = .next u ∧
    u.block.res = v

/-! ### The scanner -/

/-- R185: SCAN_CLR clears both counters and the position and writes nothing else. -/
def Obligations.ScanClrStartsStream : Prop :=
  encode .scanClr = 0x30000000#32 ∧
  ∀ s : State,
    (s.Running → exec .scanClr s = .next { s with block :=
      { s.block with messCnt := 0, maskCnt := 0, scanPos := 0x00000000#32 } }) ∧
    (s.Faulted → exec .scanClr s = .next s)

/-- R181, R182, R186: SCAN_BYTE advances each counter on its own literal by R181's rule, reports a
counter that reaches the full length and resets it, and adds one to the position modulo 2^32. -/
def Obligations.ScanByteStepsBothCounters : Prop :=
  ∀ (d : Byte) (s : State),
    encode (.scanByte d) = 0x31#8 ++ 0x00#8 ++ 0x00#8 ++ d ∧
    (s.Running →
      let mess : List Byte := [0x6D#8, 0x65#8, 0x73#8, 0x73#8, 0x3D#8]
      let mask : List Byte := [0x6D#8, 0x61#8, 0x73#8, 0x6B#8, 0x3D#8]
      let next : List Byte → Nat → Nat := fun L c =>
        if L[c]? = some d then c + 1 else if L[0]? = some d then 1 else 0
      ∃ m k : Fin 5,
        m.val = (if next mess s.block.messCnt.val = 5 then 0 else next mess s.block.messCnt.val) ∧
        k.val = (if next mask s.block.maskCnt.val = 5 then 0 else next mask s.block.maskCnt.val) ∧
        exec (.scanByte d) s = .next { s with block := { s.block with
          messCnt := m, maskCnt := k
          scanPos := BitVec.ofNat 32 (s.block.scanPos.toNat + 1)
          res := BitVec.ofNat 32 ((if next mess s.block.messCnt.val = 5 then 1 else 0) +
            (if next mask s.block.maskCnt.val = 5 then 2 else 0)) } }) ∧
    (s.Faulted → exec (.scanByte d) s = .next s)

/-- R187: SCAN_SKIP adds one to the position modulo 2^32 and leaves the counters. -/
def Obligations.ScanSkipCountsByte : Prop :=
  encode .scanSkip = 0x32000000#32 ∧
  ∀ s : State,
    (s.Running → exec .scanSkip s = .next { s with block :=
      { s.block with scanPos := BitVec.ofNat 32 (s.block.scanPos.toNat + 1) } }) ∧
    (s.Faulted → exec .scanSkip s = .next s)

/-- R188: SCAN_POS writes the position to `res` and nothing else. -/
def Obligations.ScanPosReadsPosition : Prop :=
  encode .scanPos = 0x33000000#32 ∧
  ∀ s : State,
    (s.Running → exec .scanPos s = .next { s with block := { s.block with res := s.block.scanPos } }) ∧
    (s.Faulted → exec .scanPos s = .next s)

/-- R189: the full transition table of the scanner, over its eight states and every byte. -/
def Obligations.ScannerTransitionTable : Prop :=
  ∀ (d : Byte) (s : State), s.Running →
    let row : (Nat × Nat) × Nat :=
      if d = 0x6D#8 then ((1, 1), 0)
      else match s.block.messCnt.val, s.block.maskCnt.val with
        | 1, 1 => if d = 0x65#8 then ((2, 0), 0) else if d = 0x61#8 then ((0, 2), 0) else ((0, 0), 0)
        | 2, 0 => if d = 0x73#8 then ((3, 0), 0) else ((0, 0), 0)
        | 3, 0 => if d = 0x73#8 then ((4, 0), 0) else ((0, 0), 0)
        | 4, 0 => if d = 0x3D#8 then ((0, 0), 1) else ((0, 0), 0)
        | 0, 2 => if d = 0x73#8 then ((0, 3), 0) else ((0, 0), 0)
        | 0, 3 => if d = 0x6B#8 then ((0, 4), 0) else ((0, 0), 0)
        | 0, 4 => if d = 0x3D#8 then ((0, 0), 2) else ((0, 0), 0)
        | _, _ => ((0, 0), 0)
    ∃ m k : Fin 5, (m.val, k.val) = row.1 ∧
      exec (.scanByte d) s = .next { s with block := { s.block with
        messCnt := m, maskCnt := k, scanPos := s.block.scanPos + 1#32
        res := BitVec.ofNat 32 row.2 } }

/-- R183: a byte raises at most one event, only `=` raises one, and after an event both counters are
0. -/
def Obligations.MarkerEventsComeFromEquals : Prop :=
  ∀ (d : Byte) (s : State), s.Running → ∃ t : State, exec (.scanByte d) s = .next t ∧
    ¬ (t.block.res.getLsbD 0 = true ∧ t.block.res.getLsbD 1 = true) ∧
    t.block.res.extractLsb' 2 30 = 0#30 ∧
    (t.block.res ≠ 0#32 → d = 0x3D#8 ∧ t.block.messCnt = 0 ∧ t.block.maskCnt = 0)

/-- R190: over every byte stream from cleared counters, the last SCAN_BYTE reports `mess=` exactly when
the stream ends in an occurrence of it, and likewise `mask=`. -/
def Obligations.ScannerIsExact : Prop :=
  ∀ (s : State) (ds : List Byte) (d : Byte), s.Running → s.block.messCnt = 0 → s.block.maskCnt = 0 →
    ∃ t : State, runWords (words ((ds ++ [d]).map Instr.scanByte)) s = .next t ∧
      (t.block.res.getLsbD 0 = true ↔ [0x6D#8, 0x65#8, 0x73#8, 0x73#8, 0x3D#8] <:+ ds ++ [d]) ∧
      (t.block.res.getLsbD 1 = true ↔ [0x6D#8, 0x61#8, 0x73#8, 0x6B#8, 0x3D#8] <:+ ds ++ [d]) ∧
      t.block.res.extractLsb' 2 30 = 0#30

/-- R184, R26: after SCAN_CLR, any sequence of SCAN_BYTE and SCAN_SKIP leaves the position at its
length modulo 2^32, which SCAN_POS then gives. -/
def Obligations.PositionCountsStreamBytes : Prop :=
  ∀ (s : State) (is : List Instr), s.Running →
    (∀ i ∈ is, i = .scanSkip ∨ ∃ d, i = .scanByte d) →
    ∃ t : State, runWords (words (.scanClr :: is ++ [.scanPos])) s = .next t ∧
      t.block.scanPos = BitVec.ofNat 32 is.length ∧ t.block.res = BitVec.ofNat 32 is.length

/-! ### The assembler -/

/-- R78: a line of a command's mnemonic assembles to one word, a legal one, exactly when it is well
formed (as many operands as the mnemonic takes, each one byte), and is an error otherwise. The word is
R73's opcode with one operand in B, or two in A (first) and B (second). An unknown mnemonic is an error.
Which character codes a literal may have is the model's choice (log entry 10). -/
def Obligations.WellFormedLinesAssemble : Prop :=
  (∀ l : AsmLine, operandCount l.mnemonic ≠ none →
    (l.wellFormed = true ↔ ∃ w, assemble l = .ok [w] ∧ legal w = true) ∧
    (l.wellFormed = false ↔ ∃ e, assemble l = .error e)) ∧
  (∀ p ∈ [("NOP", 0x00#8), ("SRESET", 0x01#8), ("STATUS", 0x02#8), ("CRC_INIT", 0x10#8),
      ("CRC_READ", 0x12#8), ("CRC_RAW", 0x13#8), ("HEX_CLR", 0x22#8), ("HEX_ACC", 0x24#8),
      ("SCAN_CLR", 0x30#8), ("SCAN_SKIP", 0x32#8), ("SCAN_POS", 0x33#8)],
    assemble ⟨p.1, []⟩ = .ok [p.2 ++ 0x00#8 ++ 0x00#8 ++ 0x00#8]) ∧
  (∀ (o : AsmOperand) (b : Byte), o.byte? = some b →
    ∀ p ∈ [("CRC_BYTE", 0x11#8), ("HEX_ENC", 0x21#8), ("HEX_PUSH", 0x23#8), ("SCAN_BYTE", 0x31#8)],
      assemble ⟨p.1, [o]⟩ = .ok [p.2 ++ 0x00#8 ++ 0x00#8 ++ b]) ∧
  (∀ (o₁ o₂ : AsmOperand) (a b : Byte), o₁.byte? = some a → o₂.byte? = some b →
    assemble ⟨"HEX_DEC", [o₁, o₂]⟩ = .ok [0x20#8 ++ 0x00#8 ++ a ++ b]) ∧
  (∀ l : AsmLine, operandCount l.mnemonic = none →
    l.mnemonic ∉ ["CRC_BYTES", "CRC_ZEROS", "CRC_COMPUTE", "HEX_U32", "SCAN_STR", "SCAN_SKIPN"] →
    ∃ e, assemble l = .error e)

/-- R79: the words each pseudo-instruction expands to, in order, for every list of operands it admits,
and an assembly error for every other list. The model's choices in it: a character in a literal or a
string stands for its ASCII code and has one exactly below 128 (log entry 10, PRESUMED); the count of
CRC_ZEROS and SCAN_SKIPN is no character literal (log entry 11, DESIGN CHOICE) and is not bounded by
R78's 0..255 (log entry 12, DEDUCED). -/
def Obligations.PseudoInstructionsExpand : Prop :=
  (∀ (os : List AsmOperand) (bs : List Byte), os.mapM AsmOperand.byte? = some bs →
    assemble ⟨"CRC_BYTES", os⟩ = .ok (words (bs.map Instr.crcByte)) ∧
    assemble ⟨"CRC_COMPUTE", os⟩ = .ok (words (.crcInit :: bs.map Instr.crcByte ++ [.crcRead]))) ∧
  (∀ os : List AsmOperand, (∃ o ∈ os, o.byte? = none) →
    (∃ e, assemble ⟨"CRC_BYTES", os⟩ = .error e) ∧ ∃ e, assemble ⟨"CRC_COMPUTE", os⟩ = .error e) ∧
  (∀ n : Nat,
    assemble ⟨"CRC_ZEROS", [.number n]⟩ = .ok (words (List.replicate n (.crcByte 0x00#8))) ∧
    assemble ⟨"SCAN_SKIPN", [.number n]⟩ = .ok (words (List.replicate n .scanSkip))) ∧
  (∀ os : List AsmOperand, (∀ n, os ≠ [.number n]) →
    (∃ e, assemble ⟨"CRC_ZEROS", os⟩ = .error e) ∧ ∃ e, assemble ⟨"SCAN_SKIPN", os⟩ = .error e) ∧
  (∀ (cs : List Char) (bs : List Byte), cs.mapM charCode? = some bs →
    assemble ⟨"SCAN_STR", [.string cs]⟩ = .ok (words (bs.map Instr.scanByte)) ∧
    (cs.length = 8 → assemble ⟨"HEX_U32", [.string cs]⟩ =
      .ok (words (.hexClr :: bs.map Instr.hexPush ++ [.hexAcc])))) ∧
  (∀ os : List AsmOperand, (∀ cs bs, cs.mapM charCode? = some bs → os ≠ [.string cs]) →
    (∃ e, assemble ⟨"SCAN_STR", os⟩ = .error e) ∧ ∃ e, assemble ⟨"HEX_U32", os⟩ = .error e) ∧
  (∀ cs : List Char, cs.length ≠ 8 → ∃ e, assemble ⟨"HEX_U32", [.string cs]⟩ = .error e)
end

