-- ==== Sys2Proof/Laws/Assembler.lean ====
section
/-! SUPPORT. What the assembler reads an operand as, said once (spec/30_encoding.md R78): the byte that
`charCode?` or `AsmOperand.byte?` gives it, else an assembly error, for one operand and for a list. -/

namespace Sys2Proof.Machine

theorem charByte_of_some {c : Char} {b : Byte} (h : charCode? c = some b) : charByte c = .ok b := by
  unfold charCode? at h
  split at h
  · next hc => cases h; exact if_pos hc
  · cases h

theorem charByte_of_none {c : Char} (h : charCode? c = none) : ∃ e, charByte c = .error e := by
  unfold charCode? at h
  split at h
  · cases h
  · next hc => exact ⟨_, if_neg hc⟩

theorem asmByte_of_some {o : AsmOperand} {b : Byte} (h : o.byte? = some b) : asmByte o = .ok b := by
  cases o with
  | number n =>
    simp only [AsmOperand.byte?] at h
    split at h
    · next hn => cases h; exact if_pos hn
    · cases h
  | char c => exact charByte_of_some h
  | string _ => cases h

theorem asmByte_of_none {o : AsmOperand} (h : o.byte? = none) : ∃ e, asmByte o = .error e := by
  cases o with
  | number n =>
    simp only [AsmOperand.byte?] at h
    split at h
    · cases h
    · next hn => exact ⟨_, if_neg hn⟩
  | char c => exact charByte_of_none h
  | string _ => exact ⟨_, rfl⟩

variable {α : Type} {f : α → Option Byte} {g : α → Except AsmError Byte}

/-- A list every element of which is a byte is read as those bytes. -/
theorem mapM_ok_of_some (hg : ∀ a b, f a = some b → g a = .ok b) :
    ∀ (l : List α) (bs : List Byte), l.mapM f = some bs → l.mapM g = .ok bs
  | [], bs, h => by cases h; rfl
  | a :: l, bs, h => by
    obtain ⟨b, hb, r, hr, rfl⟩ : ∃ b, f a = some b ∧ ∃ r, l.mapM f = some r ∧ b :: r = bs := by
      simpa [List.mapM_cons, Option.bind_eq_some_iff] using h
    rw [List.mapM_cons, hg a b hb, mapM_ok_of_some hg l r hr]
    rfl

/-- A list with an element that is no byte is an error. -/
theorem mapM_error_of_none (hg : ∀ a, f a = none → ∃ e, g a = .error e) :
    ∀ l : List α, (∃ a ∈ l, f a = none) → ∃ e, l.mapM g = .error e
  | [], h => by simp at h
  | a :: l, h => by
    rw [List.mapM_cons]
    cases ha : g a with
    | error e => exact ⟨e, rfl⟩
    | ok b =>
      obtain ⟨x, hx, hn⟩ := h
      rcases List.mem_cons.mp hx with rfl | hx
      · obtain ⟨e, he⟩ := hg x hn
        rw [ha] at he
        cases he
      · obtain ⟨e, he⟩ := mapM_error_of_none hg l ⟨x, hx, hn⟩
        exact ⟨e, by rw [he]; rfl⟩

end Sys2Proof.Machine
end

