-- ==== Sys2Proof/Laws/State.lean ====
section
/-! SUPPORT. One lemma per field per update of the state, each true by definition, so that no later
proof unfolds a record update. -/

namespace Sys2Proof.Machine

/-! ### Block.setCrcReg -/

@[simp] theorem Block.setCrcReg_crcReg (b : Block) (v : Word) : (b.setCrcReg v).crcReg = v := rfl
@[simp] theorem Block.setCrcReg_hexAcc (b : Block) (v : Word) :
    (b.setCrcReg v).hexAcc = b.hexAcc := rfl
@[simp] theorem Block.setCrcReg_hexCnt (b : Block) (v : Word) :
    (b.setCrcReg v).hexCnt = b.hexCnt := rfl
@[simp] theorem Block.setCrcReg_messCnt (b : Block) (v : Word) :
    (b.setCrcReg v).messCnt = b.messCnt := rfl
@[simp] theorem Block.setCrcReg_maskCnt (b : Block) (v : Word) :
    (b.setCrcReg v).maskCnt = b.maskCnt := rfl
@[simp] theorem Block.setCrcReg_scanPos (b : Block) (v : Word) :
    (b.setCrcReg v).scanPos = b.scanPos := rfl
@[simp] theorem Block.setCrcReg_res (b : Block) (v : Word) : (b.setCrcReg v).res = b.res := rfl
@[simp] theorem Block.setCrcReg_errCode (b : Block) (v : Word) :
    (b.setCrcReg v).errCode = b.errCode := rfl
@[simp] theorem Block.setCrcReg_errIdx (b : Block) (v : Word) :
    (b.setCrcReg v).errIdx = b.errIdx := rfl
@[simp] theorem Block.setCrcReg_errData (b : Block) (v : Word) :
    (b.setCrcReg v).errData = b.errData := rfl

/-! ### Block.setHex -/

@[simp] theorem Block.setHex_crcReg (b : Block) (acc : Word) (cnt : Fin 9) :
    (b.setHex acc cnt).crcReg = b.crcReg := rfl
@[simp] theorem Block.setHex_hexAcc (b : Block) (acc : Word) (cnt : Fin 9) :
    (b.setHex acc cnt).hexAcc = acc := rfl
@[simp] theorem Block.setHex_hexCnt (b : Block) (acc : Word) (cnt : Fin 9) :
    (b.setHex acc cnt).hexCnt = cnt := rfl
@[simp] theorem Block.setHex_messCnt (b : Block) (acc : Word) (cnt : Fin 9) :
    (b.setHex acc cnt).messCnt = b.messCnt := rfl
@[simp] theorem Block.setHex_maskCnt (b : Block) (acc : Word) (cnt : Fin 9) :
    (b.setHex acc cnt).maskCnt = b.maskCnt := rfl
@[simp] theorem Block.setHex_scanPos (b : Block) (acc : Word) (cnt : Fin 9) :
    (b.setHex acc cnt).scanPos = b.scanPos := rfl
@[simp] theorem Block.setHex_res (b : Block) (acc : Word) (cnt : Fin 9) :
    (b.setHex acc cnt).res = b.res := rfl
@[simp] theorem Block.setHex_errCode (b : Block) (acc : Word) (cnt : Fin 9) :
    (b.setHex acc cnt).errCode = b.errCode := rfl
@[simp] theorem Block.setHex_errIdx (b : Block) (acc : Word) (cnt : Fin 9) :
    (b.setHex acc cnt).errIdx = b.errIdx := rfl
@[simp] theorem Block.setHex_errData (b : Block) (acc : Word) (cnt : Fin 9) :
    (b.setHex acc cnt).errData = b.errData := rfl

/-! ### Block.setCounters -/

@[simp] theorem Block.setCounters_crcReg (b : Block) (m k : Fin 5) :
    (b.setCounters m k).crcReg = b.crcReg := rfl
@[simp] theorem Block.setCounters_hexAcc (b : Block) (m k : Fin 5) :
    (b.setCounters m k).hexAcc = b.hexAcc := rfl
@[simp] theorem Block.setCounters_hexCnt (b : Block) (m k : Fin 5) :
    (b.setCounters m k).hexCnt = b.hexCnt := rfl
@[simp] theorem Block.setCounters_messCnt (b : Block) (m k : Fin 5) :
    (b.setCounters m k).messCnt = m := rfl
@[simp] theorem Block.setCounters_maskCnt (b : Block) (m k : Fin 5) :
    (b.setCounters m k).maskCnt = k := rfl
@[simp] theorem Block.setCounters_scanPos (b : Block) (m k : Fin 5) :
    (b.setCounters m k).scanPos = b.scanPos := rfl
@[simp] theorem Block.setCounters_res (b : Block) (m k : Fin 5) :
    (b.setCounters m k).res = b.res := rfl
@[simp] theorem Block.setCounters_errCode (b : Block) (m k : Fin 5) :
    (b.setCounters m k).errCode = b.errCode := rfl
@[simp] theorem Block.setCounters_errIdx (b : Block) (m k : Fin 5) :
    (b.setCounters m k).errIdx = b.errIdx := rfl
@[simp] theorem Block.setCounters_errData (b : Block) (m k : Fin 5) :
    (b.setCounters m k).errData = b.errData := rfl

/-! ### Block.setScanPos -/

@[simp] theorem Block.setScanPos_crcReg (b : Block) (v : Word) :
    (b.setScanPos v).crcReg = b.crcReg := rfl
@[simp] theorem Block.setScanPos_hexAcc (b : Block) (v : Word) :
    (b.setScanPos v).hexAcc = b.hexAcc := rfl
@[simp] theorem Block.setScanPos_hexCnt (b : Block) (v : Word) :
    (b.setScanPos v).hexCnt = b.hexCnt := rfl
@[simp] theorem Block.setScanPos_messCnt (b : Block) (v : Word) :
    (b.setScanPos v).messCnt = b.messCnt := rfl
@[simp] theorem Block.setScanPos_maskCnt (b : Block) (v : Word) :
    (b.setScanPos v).maskCnt = b.maskCnt := rfl
@[simp] theorem Block.setScanPos_scanPos (b : Block) (v : Word) :
    (b.setScanPos v).scanPos = v := rfl
@[simp] theorem Block.setScanPos_res (b : Block) (v : Word) : (b.setScanPos v).res = b.res := rfl
@[simp] theorem Block.setScanPos_errCode (b : Block) (v : Word) :
    (b.setScanPos v).errCode = b.errCode := rfl
@[simp] theorem Block.setScanPos_errIdx (b : Block) (v : Word) :
    (b.setScanPos v).errIdx = b.errIdx := rfl
@[simp] theorem Block.setScanPos_errData (b : Block) (v : Word) :
    (b.setScanPos v).errData = b.errData := rfl

/-! ### Block.setRes -/

@[simp] theorem Block.setRes_crcReg (b : Block) (v : Word) : (b.setRes v).crcReg = b.crcReg := rfl
@[simp] theorem Block.setRes_hexAcc (b : Block) (v : Word) : (b.setRes v).hexAcc = b.hexAcc := rfl
@[simp] theorem Block.setRes_hexCnt (b : Block) (v : Word) : (b.setRes v).hexCnt = b.hexCnt := rfl
@[simp] theorem Block.setRes_messCnt (b : Block) (v : Word) :
    (b.setRes v).messCnt = b.messCnt := rfl
@[simp] theorem Block.setRes_maskCnt (b : Block) (v : Word) :
    (b.setRes v).maskCnt = b.maskCnt := rfl
@[simp] theorem Block.setRes_scanPos (b : Block) (v : Word) :
    (b.setRes v).scanPos = b.scanPos := rfl
@[simp] theorem Block.setRes_res (b : Block) (v : Word) : (b.setRes v).res = v := rfl
@[simp] theorem Block.setRes_errCode (b : Block) (v : Word) :
    (b.setRes v).errCode = b.errCode := rfl
@[simp] theorem Block.setRes_errIdx (b : Block) (v : Word) : (b.setRes v).errIdx = b.errIdx := rfl
@[simp] theorem Block.setRes_errData (b : Block) (v : Word) :
    (b.setRes v).errData = b.errData := rfl

/-! ### Block.raise -/

@[simp] theorem Block.raise_crcReg (b : Block) (e : ErrorKind) (i : BitVec 1) (d : Byte) :
    (b.raise e i d).crcReg = b.crcReg := rfl
@[simp] theorem Block.raise_hexAcc (b : Block) (e : ErrorKind) (i : BitVec 1) (d : Byte) :
    (b.raise e i d).hexAcc = b.hexAcc := rfl
@[simp] theorem Block.raise_hexCnt (b : Block) (e : ErrorKind) (i : BitVec 1) (d : Byte) :
    (b.raise e i d).hexCnt = b.hexCnt := rfl
@[simp] theorem Block.raise_messCnt (b : Block) (e : ErrorKind) (i : BitVec 1) (d : Byte) :
    (b.raise e i d).messCnt = b.messCnt := rfl
@[simp] theorem Block.raise_maskCnt (b : Block) (e : ErrorKind) (i : BitVec 1) (d : Byte) :
    (b.raise e i d).maskCnt = b.maskCnt := rfl
@[simp] theorem Block.raise_scanPos (b : Block) (e : ErrorKind) (i : BitVec 1) (d : Byte) :
    (b.raise e i d).scanPos = b.scanPos := rfl
@[simp] theorem Block.raise_res (b : Block) (e : ErrorKind) (i : BitVec 1) (d : Byte) :
    (b.raise e i d).res = b.res := rfl
@[simp] theorem Block.raise_errCode (b : Block) (e : ErrorKind) (i : BitVec 1) (d : Byte) :
    (b.raise e i d).errCode = e.code := rfl
@[simp] theorem Block.raise_errIdx (b : Block) (e : ErrorKind) (i : BitVec 1) (d : Byte) :
    (b.raise e i d).errIdx = i := rfl
@[simp] theorem Block.raise_errData (b : Block) (e : ErrorKind) (i : BitVec 1) (d : Byte) :
    (b.raise e i d).errData = d := rfl

/-! ### Block.reset -/

@[simp] theorem Block.reset_crcReg : Block.reset.crcReg = 0xFFFFFFFF#32 := rfl
@[simp] theorem Block.reset_hexAcc : Block.reset.hexAcc = 0#32 := rfl
@[simp] theorem Block.reset_hexCnt : Block.reset.hexCnt = 0 := rfl
@[simp] theorem Block.reset_messCnt : Block.reset.messCnt = 0 := rfl
@[simp] theorem Block.reset_maskCnt : Block.reset.maskCnt = 0 := rfl
@[simp] theorem Block.reset_scanPos : Block.reset.scanPos = 0#32 := rfl
@[simp] theorem Block.reset_res : Block.reset.res = 0#32 := rfl
@[simp] theorem Block.reset_errCode : Block.reset.errCode = 0x00#8 := rfl
@[simp] theorem Block.reset_errIdx : Block.reset.errIdx = 0#1 := rfl
@[simp] theorem Block.reset_errData : Block.reset.errData = 0x00#8 := rfl

@[simp] theorem Block.resetAction_eq (b : Block) : b.resetAction = Block.reset := rfl

/-! ### The machine state -/

@[simp] theorem State.setBlock_block (s : State) (x : Block) : (s.setBlock x).block = x := rfl
@[simp] theorem State.setBlock_config (s : State) (x : Block) : (s.setBlock x).config = s.config := rfl
@[simp] theorem State.setBlock_port (s : State) (x : Block) : (s.setBlock x).port = s.port := rfl
@[simp] theorem State.setPort_block (s : State) (x : List PortInput) : (s.setPort x).block = s.block := rfl
@[simp] theorem State.setPort_config (s : State) (x : List PortInput) : (s.setPort x).config = s.config := rfl
@[simp] theorem State.setPort_port (s : State) (x : List PortInput) : (s.setPort x).port = x := rfl
@[simp] theorem State.setBlock_self (s : State) : s.setBlock s.block = s := rfl
@[simp] theorem State.setPort_self (s : State) : s.setPort s.port = s := rfl
@[simp] theorem State.setBlock_setBlock (s : State) (x y : Block) :
    (s.setBlock x).setBlock y = s.setBlock y := rfl
@[simp] theorem State.setPort_setPort (s : State) (x y : List PortInput) :
    (s.setPort x).setPort y = s.setPort y := rfl
theorem State.setPort_setBlock (s : State) (x : Block) (p : List PortInput) :
    (s.setBlock x).setPort p = (s.setPort p).setBlock x := rfl
@[simp] theorem State.reset_block : State.reset.block = Block.reset := rfl
@[simp] theorem State.reset_config : State.reset.config = Config.default := rfl
@[simp] theorem State.reset_port : State.reset.port = [] := rfl

end Sys2Proof.Machine
end

