-- ==== Sys2Proof/Laws/Ops.lean ====
section
/-! SUPPORT. What each shared operation can do, said once: the two cases of a command that goes through
`applyToBlock`, the modes of `runCommand`, the effect of every command as a function on the block, and
what a step does with the port. -/

namespace Sys2Proof.Machine

/-! ### The command cycle -/

theorem applyToBlock_of_invariant {f : Block → Block} {s : State} (h : s.block.Invariant) :
    applyToBlock f s = .next (s.setBlock (f s.block)) := if_pos h

theorem applyToBlock_refused {f : Block → Block} {s : State} (h : ¬ s.block.Invariant) :
    applyToBlock f s = .refused .invariantViolated := if_neg h

/-- If `applyToBlock` answers a next state, the state met the invariant and only the block changed. -/
theorem applyToBlock_eq_next {f : Block → Block} {s t : State} (h : applyToBlock f s = .next t) :
    s.block.Invariant ∧ t = s.setBlock (f s.block) := by
  unfold applyToBlock at h
  split at h
  · next hi => exact ⟨hi, (Host.Outcome.next.inj h).symm⟩
  · cases h

theorem Block.inFault_iff (b : Block) : b.inFault = true ↔ b.errCode ≠ 0x00#8 := by
  simp [Block.inFault]

theorem runCommand_of_running {f : Block → Block} {s : State} (h : s.Running) :
    runCommand f s = .next (s.setBlock (f s.block)) := by
  simp [runCommand, applyToBlock_of_invariant h.1, Block.inFault, h.2]

theorem runCommand_of_faulted {f : Block → Block} {s : State} (h : s.Faulted) :
    runCommand f s = .next s := by
  simp [runCommand, applyToBlock_of_invariant h.1, Block.inFault, h.2]

theorem runCommand_refused {f : Block → Block} {s : State} (h : ¬ s.block.Invariant) :
    runCommand f s = .refused .invariantViolated := applyToBlock_refused h

/-! ### The effect of every command -/

/-- A command's effect outside the fault state, on a block with the given parameters. -/
def commandEffect (c : Config) : Instr → Block → Block
  | .nop, b => b
  | .sreset, b => b.resetAction
  | .status, b => b.setRes b.statusWord
  | .crcInit, b => b.setCrcReg crcSeed
  | .crcByte d, b => b.setCrcReg (crcUpdate c.crcReflect b.crcReg d)
  | .crcRead, b => b.setRes (crcFinal c b.crcReg)
  | .crcRaw, b => b.setRes b.crcReg
  | .hexDec c1 c2, b => b.hexDec c1 c2
  | .hexEnc d, b => b.setRes (zext32 (enc (highNibble d) ++ enc (lowNibble d)))
  | .hexClr, b => b.setHex 0#32 0
  | .hexPush d, b => b.hexPush d
  | .hexAcc, b => b.setRes b.hexAcc
  | .scanClr, b => (b.setCounters 0 0).setScanPos 0#32
  | .scanByte d, b => b.scanByte d
  | .scanSkip, b => b.setScanPos (b.scanPos + 1#32)
  | .scanPos, b => b.setRes b.scanPos

/-- Every command is one step of the block: its effect, but that in the fault state only STATUS and
SRESET have one (R100, R212). -/
theorem exec_eq_applyToBlock (i : Instr) (s : State) :
    exec i s = applyToBlock
      (fun b => if b.inFault ∧ i ≠ .status ∧ i ≠ .sreset then b else commandEffect s.config i b) s := by
  cases i <;>
    simp [exec, execNop, execSreset, execStatus, execCrcInit, execCrcByte, execCrcRead, execCrcRaw,
      execHexDec, execHexEnc, execHexClr, execHexPush, execHexAcc, execScanClr, execScanByte,
      execScanSkip, execScanPos, runCommand, commandEffect, -Block.resetAction_eq]

/-- If a command answers a next state, the state met the invariant and only the block changed. -/
theorem exec_eq_next {i : Instr} {s t : State} (h : exec i s = .next t) :
    s.block.Invariant ∧ t = s.setBlock
      (if s.block.inFault ∧ i ≠ .status ∧ i ≠ .sreset then s.block
        else commandEffect s.config i s.block) :=
  applyToBlock_eq_next (exec_eq_applyToBlock i s ▸ h)

/-- Outside the fault state every command has its effect. -/
theorem exec_of_running {s : State} (h : s.Running) (i : Instr) :
    exec i s = .next (s.setBlock (commandEffect s.config i s.block)) := by
  rw [exec_eq_applyToBlock, applyToBlock_of_invariant h.1]
  simp [Block.inFault, h.2]

/-- In the fault state every command but STATUS and SRESET leaves the state as it is. -/
theorem exec_of_faulted {s : State} (h : s.Faulted) {i : Instr} (hs : i ≠ .status)
    (hr : i ≠ .sreset) : exec i s = .next s := by
  rw [exec_eq_applyToBlock, applyToBlock_of_invariant h.1]
  simp [Block.inFault, h.2, hs, hr]

/-! ### Words and the port -/

theorem execWord_of_command {cmd : Word} {i : Instr} (h : decode cmd = .command i) (s : State) :
    execWord cmd s = exec i s := by
  simp [execWord, h]

theorem execWord_of_illegal {cmd : Word} (h : decode cmd = .illegal) (s : State) :
    execWord cmd s = illegalCommand cmd s := by
  simp [execWord, h]

/-- The effect of a word on a block with the given parameters: that of its command, or IllegalCommand
raised outside the fault state (R100). -/
def wordEffect (c : Config) (cmd : Word) (b : Block) : Block :=
  match decode cmd with
  | .command i => if b.inFault ∧ i ≠ .status ∧ i ≠ .sreset then b else commandEffect c i b
  | .illegal => if b.inFault then b else b.raise .illegalCommand 0#1 (opField cmd)

theorem wordEffect_of_command {cmd : Word} {i : Instr} (h : decode cmd = .command i) (c : Config) :
    wordEffect c cmd =
      fun b => if b.inFault ∧ i ≠ .status ∧ i ≠ .sreset then b else commandEffect c i b := by
  funext b; unfold wordEffect; rw [h]

theorem wordEffect_of_illegal {cmd : Word} (h : decode cmd = .illegal) (c : Config) :
    wordEffect c cmd =
      fun b => if b.inFault then b else b.raise .illegalCommand 0#1 (opField cmd) := by
  funext b; unfold wordEffect; rw [h]

/-- Every word, legal or not, is one step of the block: its effect. -/
theorem execWord_eq_applyToBlock (cmd : Word) (s : State) :
    execWord cmd s = applyToBlock (wordEffect s.config cmd) s := by
  rcases hd : decode cmd with i | _
  · rw [execWord_of_command hd, exec_eq_applyToBlock, wordEffect_of_command hd]
  · rw [execWord_of_illegal hd, wordEffect_of_illegal hd]; rfl

theorem nextInput_of_empty {s : State} (h : s.port = []) : nextInput s = (.idle, s) := by
  simp [nextInput, h]

theorem nextInput_of_cons {s : State} {e : PortInput} {rest : List PortInput}
    (h : s.port = e :: rest) : nextInput s = (e, s.setPort rest) := by
  simp [nextInput, h]

/-- Taking the next input changes nothing but the port, from which it takes the first. -/
theorem nextInput_snd (s : State) : (nextInput s).2 = s.setPort s.port.tail := by
  obtain ⟨b, c, p⟩ := s
  cases p <;> rfl

/-- What a step can do, by the input it takes. -/
theorem step_cases (s : State) :
    ((nextInput s).1 = .hardReset ∧ step s = hardReset (nextInput s).2) ∨
    ((nextInput s).1 = .idle ∧ step s = idleCycle (nextInput s).2) ∨
    (∃ cmd, (nextInput s).1 = .command cmd ∧ step s = execWord cmd (nextInput s).2) := by
  unfold step
  split <;> simp_all

/-- If a step answers a next state, the state met the invariant, the first input is gone from the port,
and the block is reset, unchanged, or as the word presented leaves it. -/
theorem step_eq_next {s t : State} (h : step s = .next t) :
    s.block.Invariant ∧ ∃ b : Block, t = (s.setPort s.port.tail).setBlock b ∧
      (((nextInput s).1 = .hardReset ∧ b = Block.reset) ∨
        ((nextInput s).1 = .idle ∧ b = s.block) ∨
        ∃ cmd, (nextInput s).1 = .command cmd ∧ b = wordEffect s.config cmd s.block) := by
  have hn := nextInput_snd s
  obtain ⟨hi, e⟩ | ⟨hi, e⟩ | ⟨cmd, hi, e⟩ := step_cases s <;> rw [e, hn] at h
  · obtain ⟨hs, ht⟩ := applyToBlock_eq_next h
    exact ⟨hs, _, ht, .inl ⟨hi, rfl⟩⟩
  · obtain ⟨hs, ht⟩ := applyToBlock_eq_next h
    exact ⟨hs, _, ht, .inr (.inl ⟨hi, rfl⟩)⟩
  · rw [execWord_eq_applyToBlock] at h
    obtain ⟨hs, ht⟩ := applyToBlock_eq_next h
    exact ⟨hs, _, ht, .inr (.inr ⟨cmd, hi, rfl⟩)⟩

theorem runWords_nil (s : State) : runWords [] s = .next s := rfl

theorem runWords_cons_of_next {w : Word} {s t : State} (h : execWord w s = .next t)
    (ws : List Word) : runWords (w :: ws) s = runWords ws t := by
  simp [runWords, h]

/-- A run in two parts goes on from the state the first part ends in. -/
theorem runWords_append {ws : List Word} {s t : State} (h : runWords ws s = .next t)
    (vs : List Word) : runWords (ws ++ vs) s = runWords vs t := by
  induction ws generalizing s with
  | nil => cases h; rfl
  | cons w ws ih =>
    simp only [runWords, List.cons_append] at h ⊢
    split at h
    · exact ih h
    · cases h
    · cases h

end Sys2Proof.Machine
end

