-- ==== Sys2Proof/Laws/PerInstr.lean ====
section
/-! SUPPORT. What the encoder writes, for every command: each field of the word (spec/30_encoding.md
R71) is the command's own, and RSV is zero. -/

namespace Sys2Proof.Laws

/-- The four fields of a word put together from four bytes. -/
theorem fields_of_word (op r a b : Byte) :
    opField (op ++ r ++ a ++ b : Word) = op ∧ rsvField (op ++ r ++ a ++ b : Word) = r ∧
      aField (op ++ r ++ a ++ b : Word) = a ∧ bField (op ++ r ++ a ++ b : Word) = b := by
  refine ⟨?_, ?_, ?_, ?_⟩ <;> ext i hi <;>
    simp only [opField, rsvField, aField, bField, BitVec.getElem_extractLsb',
      BitVec.getLsbD_append] <;>
    rw [← BitVec.getLsbD_eq_getElem] <;>
    (repeat' split) <;> first | (exfalso; omega) | (congr 1; omega)

/-- The fields of a command's word are the command's opcode, zero, and its operands (R71, R73). -/
def EncodedFields.Statement (i : Instr) : Prop :=
  opField (encode i) = i.opcode ∧ rsvField (encode i) = 0#8 ∧ aField (encode i) = i.operandA ∧
    bField (encode i) = i.operandB

theorem EncodedFields.nop : EncodedFields.Statement .nop := fields_of_word _ _ _ _
theorem EncodedFields.sreset : EncodedFields.Statement .sreset := fields_of_word _ _ _ _
theorem EncodedFields.status : EncodedFields.Statement .status := fields_of_word _ _ _ _
theorem EncodedFields.crcInit : EncodedFields.Statement .crcInit := fields_of_word _ _ _ _
theorem EncodedFields.crcByte (b : Byte) : EncodedFields.Statement (.crcByte b) := fields_of_word _ _ _ _
theorem EncodedFields.crcRead : EncodedFields.Statement .crcRead := fields_of_word _ _ _ _
theorem EncodedFields.crcRaw : EncodedFields.Statement .crcRaw := fields_of_word _ _ _ _
theorem EncodedFields.hexDec (a b : Byte) : EncodedFields.Statement (.hexDec a b) := fields_of_word _ _ _ _
theorem EncodedFields.hexEnc (b : Byte) : EncodedFields.Statement (.hexEnc b) := fields_of_word _ _ _ _
theorem EncodedFields.hexClr : EncodedFields.Statement .hexClr := fields_of_word _ _ _ _
theorem EncodedFields.hexPush (b : Byte) : EncodedFields.Statement (.hexPush b) := fields_of_word _ _ _ _
theorem EncodedFields.hexAcc : EncodedFields.Statement .hexAcc := fields_of_word _ _ _ _
theorem EncodedFields.scanClr : EncodedFields.Statement .scanClr := fields_of_word _ _ _ _
theorem EncodedFields.scanByte (b : Byte) : EncodedFields.Statement (.scanByte b) := fields_of_word _ _ _ _
theorem EncodedFields.scanSkip : EncodedFields.Statement .scanSkip := fields_of_word _ _ _ _
theorem EncodedFields.scanPos : EncodedFields.Statement .scanPos := fields_of_word _ _ _ _

end Sys2Proof.Laws
end

