-- ==== Sys2Proof/Tests/Slice0.lean ====
section
/-! SUPPORT. The model's own tests. Expected values are the spec's: the examples of the rules named and the
vectors of spec/95_test_vectors.md. Each `witness_` theorem shows that the hypotheses of the statement it
names are met together by a concrete state and operands. -/

namespace Sys2Proof.Tests

open Sys2Proof Sys2Proof.Machine

/-! ### Helpers -/

/-- The block after an outcome that is a next state. -/
def blockOf : Host.Outcome State Fault Refusal → Option Block
  | .next t => some t.block
  | .fault _ => none
  | .refused _ => none

/-- A machine with the given block, the default parameters and nothing presented. -/
def withBlock (b : Block) : State := { State.reset with block := b }

/-- A block in use: `mes` matched, seven digits pushed, the position about to wrap. -/
def busyBlock : Block :=
  { Block.reset with
    crcReg := 0x12345678#32, hexAcc := 0x01234567#32, hexCnt := 7, messCnt := 3
    scanPos := 0xFFFFFFFF#32, res := 0x5A5A5A5A#32 }

/-- A machine outside the fault state, with the direct CRC and no output XOR. -/
def busy : State :=
  { block := busyBlock, config := { crcReflect := false, crcXorOut := 0#32 }, port := [] }

/-- A machine in the fault state: `HEX_DEC 'G','0'` was the first error. -/
def stuck : State := { busy with block := { busyBlock with errCode := 0x02#8, errData := 0x47#8 } }

/-- A machine that no run reaches: the counter pair (4, 4). -/
def broken : State := { busy with block := { busyBlock with messCnt := 4, maskCnt := 4 } }

/-! ### Decoding: each row's word from spec/30_encoding.md R73, R78 and the command rules -/

theorem test_decode_nop : decode 0x00000000#32 = .command .nop := by decide
theorem test_decode_sreset : decode 0x01000000#32 = .command .sreset := by decide
theorem test_decode_status : decode 0x02000000#32 = .command .status := by decide
theorem test_decode_crcInit : decode 0x10000000#32 = .command .crcInit := by decide
theorem test_decode_crcByte : decode 0x110000DE#32 = .command (.crcByte 0xDE#8) := by decide
theorem test_decode_crcRead : decode 0x12000000#32 = .command .crcRead := by decide
theorem test_decode_crcRaw : decode 0x13000000#32 = .command .crcRaw := by decide
theorem test_decode_hexDec : decode 0x20004445#32 = .command (.hexDec 0x44#8 0x45#8) := by decide
theorem test_decode_hexEnc : decode 0x210000DE#32 = .command (.hexEnc 0xDE#8) := by decide
theorem test_decode_hexClr : decode 0x22000000#32 = .command .hexClr := by decide
theorem test_decode_hexPush : decode 0x23000046#32 = .command (.hexPush 0x46#8) := by decide
theorem test_decode_hexAcc : decode 0x24000000#32 = .command .hexAcc := by decide
theorem test_decode_scanClr : decode 0x30000000#32 = .command .scanClr := by decide
theorem test_decode_scanByte : decode 0x3100006D#32 = .command (.scanByte 0x6D#8) := by decide
theorem test_decode_scanSkip : decode 0x32000000#32 = .command .scanSkip := by decide
theorem test_decode_scanPos : decode 0x33000000#32 = .command .scanPos := by decide

/-- One word written out bit by bit from R71's fields: OP 0x31, RSV 0, A 0, B 0x3D. -/
theorem test_decode_bits :
    decode 0b00110001000000000000000000111101#32 = .command (.scanByte 0x3D#8) := by decide

/-- The illegal words of 95_test_vectors B1: one per way to be illegal. -/
theorem test_decode_illegal :
    [0x03000000#32, 0x00000001#32, 0x000000FF#32, 0x01000001#32, 0x02010000#32, 0x10010000#32,
      0x11000100#32, 0x20FF4141#32, 0x21000100#32, 0x32000001#32, 0x0F000000#32, 0x14000000#32,
      0x25000000#32, 0x34000000#32, 0x40000000#32, 0xFF000000#32].map decode =
      List.replicate 16 .illegal := by decide

/-- The well-formedness smoke test: an ill-formed word for each check of R74, by unknown OP, RSV,
operand A and operand B, and the well-formed words beside them. -/
theorem test_legal_refuses :
    legal 0x03000000#32 = false ∧ legal 0x20FF4141#32 = false ∧ legal 0x11000100#32 = false ∧
    legal 0x00000001#32 = false ∧ legal 0x20004141#32 = true ∧ legal 0x110000FF#32 = true ∧
    legal 0x00000000#32 = true := by decide

/-- R78's assembly errors: unknown mnemonic, missing or extra operand, operand outside 0..255, and an
operand of the wrong kind. -/
theorem test_line_refused :
    AsmLine.wellFormed ⟨"CRC_WORD", []⟩ = false ∧ AsmLine.wellFormed ⟨"HEX_DEC", [.number 1]⟩ = false ∧
    AsmLine.wellFormed ⟨"NOP", [.number 0]⟩ = false ∧
    AsmLine.wellFormed ⟨"CRC_BYTE", [.number 256]⟩ = false ∧
    AsmLine.wellFormed ⟨"SCAN_BYTE", [.string ['m']]⟩ = false ∧
    AsmLine.wellFormed ⟨"CRC_BYTE", [.number 255]⟩ = true := by decide +kernel

/-! ### The host's two questions -/

theorem test_decodeTableWord : decodeTableWord 32 0x20000000 = some (.hexDec 0x00#8 0x00#8) := by decide

theorem test_withFetchWord_runs :
    (blockOf (step (State.reset.withFetchWord 32 0x02000000))) = some Block.reset := by decide

/-! ### Block control -/

/-- R102's example: after `m`, `e`, `s` STATUS gives 0x00003000. -/
theorem test_status_counters :
    (blockOf (exec .status (withBlock { Block.reset with messCnt := 3 }))).map Block.res
      = some 0x00003000#32 := by decide

/-- 95_test_vectors B2: in the fault state STATUS gives 0x47000002 (here with hex_cnt 0). -/
theorem test_status_faulted :
    (blockOf (exec .status (withBlock
      { Block.reset with errCode := 0x02#8, errData := 0x47#8 }))).map Block.res
      = some 0x47000002#32 := by decide

theorem test_sreset_leaves_fault : blockOf (exec .sreset stuck) = some Block.reset := by decide

theorem test_nop_keeps_res : blockOf (exec .nop busy) = some busyBlock := by decide

/-- 95_test_vectors P5: the word 0x11000100 raises, and STATUS would give 0x11000007. -/
theorem test_illegal_status :
    (blockOf (execWord 0x11000100#32 State.reset)).map Block.statusWord = some 0x11000007#32 := by decide

/-- R210's table of codes. -/
theorem test_error_codes :
    [ErrorKind.inputNotFound, .invalidHexDigit, .payloadTooLong, .unexpectedEndOfStream,
      .duplicateMessage, .duplicateMask, .illegalCommand].map ErrorKind.code
      = [0x01#8, 0x02#8, 0x03#8, 0x04#8, 0x05#8, 0x06#8, 0x07#8] := by decide

/-- 95_test_vectors B2: an illegal word in the fault state records no second error. -/
theorem test_illegal_faulted : blockOf (execWord 0x40000000#32 stuck) = some stuck.block := by decide

theorem test_hardReset :
    blockOf (step { stuck with port := [.hardReset, .idle] }) = some Block.reset := by decide

theorem test_idle_keeps_state : blockOf (step { stuck with port := [] }) = some stuck.block := by decide

theorem test_broken_refused : step broken = .refused .invariantViolated := by rfl

/-! ### CRC -/

/-- 95_test_vectors C1 and R123: bit order, carry-out and both directions. -/
theorem test_crcUpdate :
    crcUpdate true 0x12345678#32 0x9A#8 = 0x4E16B702#32 ∧
    crcUpdate false 0x12345678#32 0x9A#8 = 0x7B527556#32 ∧
    crcUpdate true 0xFFFFFFFF#32 0xFF#8 = 0x00FFFFFF#32 ∧
    crcUpdate false 0x80000000#32 0x00#8 = 0x690CE0EE#32 := by decide

/-- R123's sample table entries for 0xFF. -/
theorem test_crcTable :
    crcTable true 0xFF#8 = 0x2D02EF8D#32 ∧ crcTable false 0xFF#8 = 0xB1F740B4#32 := by decide

/-- R120: CRC_RPOLY is CRC_POLY in reversed bit order. -/
theorem test_crcRPoly : bitrev32 crcPoly = crcRPoly := by decide +kernel

theorem test_crcInit :
    (blockOf (exec .crcInit busy)).map Block.crcReg = some 0xFFFFFFFF#32 := by decide

/-- R126's example: from the seed, 0x31 gives 0x7C231048 with the defaults. -/
theorem test_crcByte :
    (blockOf (exec (.crcByte 0x31#8) State.reset)).map Block.crcReg = some 0x7C231048#32 := by decide

/-- 95_test_vectors C1: the direct form from 0x12345678. -/
theorem test_crcByte_direct :
    (blockOf (exec (.crcByte 0x9A#8) busy)).map Block.crcReg = some 0x7B527556#32 := by decide

/-- R127: with the default CRC_XOROUT the seed reads as 0. -/
theorem test_crcRead : (blockOf (exec .crcRead
    (withBlock { Block.reset with res := 7#32 }))).map Block.res = some 0x00000000#32 := by decide

theorem test_crcRaw :
    (blockOf (exec .crcRaw State.reset)).map Block.res = some 0xFFFFFFFF#32 := by decide

/-! ### Hex -/

/-- 95_test_vectors H1: the bytes beside every range. -/
theorem test_nib_boundaries :
    nib 0x2F#8 = none ∧ nib 0x30#8 = some 0#4 ∧ nib 0x39#8 = some 9#4 ∧ nib 0x3A#8 = none ∧
    nib 0x40#8 = none ∧ nib 0x41#8 = some 10#4 ∧ nib 0x46#8 = some 15#4 ∧ nib 0x47#8 = none ∧
    nib 0x60#8 = none ∧ nib 0x61#8 = some 10#4 ∧ nib 0x66#8 = some 15#4 ∧ nib 0x67#8 = none ∧
    nib 0xB0#8 = none ∧ nib 0xC1#8 = none ∧ nib 0xE6#8 = none := by decide

/-- 95_test_vectors H4: `'9','F'` gives 0x9F. -/
theorem test_hexDec :
    (blockOf (exec (.hexDec 0x39#8 0x46#8) State.reset)).map Block.res = some 0x0000009F#32 := by decide

/-- 95_test_vectors H4: `'0','y'` gives STATUS 0x79800002. -/
theorem test_hexDec_second_invalid :
    (blockOf (exec (.hexDec 0x30#8 0x79#8) State.reset)).map Block.statusWord
      = some 0x79800002#32 := by decide

/-- 95_test_vectors H3: 0xA5 gives `'a','5'`. -/
theorem test_hexEnc :
    (blockOf (exec (.hexEnc 0xA5#8) State.reset)).map Block.res = some 0x00006135#32 := by decide

theorem test_hexClr :
    (blockOf (exec .hexClr busy)).map (fun b => (b.hexAcc, b.hexCnt)) = some (0#32, 0) := by decide

/-- R155's example, its tenth push: 0x23456789 becomes 0x3456789A, and the count stays 8. -/
theorem test_hexPush_shifts_out :
    (blockOf (exec (.hexPush 0x41#8) (withBlock
      { Block.reset with hexAcc := 0x23456789#32, hexCnt := 8 }))).map (fun b => (b.hexAcc, b.hexCnt))
      = some (0x3456789A#32, 8) := by decide

/-- 95_test_vectors H6: `'g'` after one push gives STATUS 0x67000102. -/
theorem test_hexPush_invalid :
    (blockOf (exec (.hexPush 0x67#8) (withBlock
      { Block.reset with hexAcc := 1#32, hexCnt := 1 }))).map Block.statusWord
      = some 0x67000102#32 := by decide

theorem test_hexAcc : (blockOf (exec .hexAcc busy)).map Block.res = some 0x01234567#32 := by decide

/-! ### Scanner -/

/-- 95_test_vectors S4: SCAN_CLR from (3,0) clears the position and leaves `res`. -/
theorem test_scanClr :
    (blockOf (exec .scanClr busy)).map (fun b => (b.messCnt, b.scanPos, b.res))
      = some (0, 0#32, 0x5A5A5A5A#32) := by decide

/-- R189's row MASK: `=` reports `mask=` as 2 and clears both counters. -/
theorem test_scanByte_event :
    (blockOf (exec (.scanByte 0x3D#8) (withBlock { Block.reset with maskCnt := 4 }))).map
      (fun b => (b.messCnt, b.maskCnt, b.res, b.scanPos)) = some (0, 0, 2#32, 1#32) := by decide

/-- 95_test_vectors S4: the position wraps, and `m` restarts both counters at 1 from (3,0). -/
theorem test_scanByte_wraps :
    (blockOf (exec (.scanByte 0x6D#8) busy)).map (fun b => (b.messCnt, b.maskCnt, b.res, b.scanPos))
      = some (1, 1, 0#32, 0#32) := by decide

/-- 95_test_vectors S4: SCAN_SKIP leaves a partial match, and wraps the position. -/
theorem test_scanSkip :
    (blockOf (exec .scanSkip busy)).map (fun b => (b.messCnt, b.scanPos, b.res))
      = some (3, 0#32, 0x5A5A5A5A#32) := by decide

theorem test_scanPos : (blockOf (exec .scanPos busy)).map Block.res = some 0xFFFFFFFF#32 := by decide

/-! ### The assembler -/

/-- R78's examples. -/
theorem test_assemble :
    (assembleText "CRC_BYTE 0xDE".toList).toOption = some [0x110000DE#32] ∧
    (assembleText "HEX_DEC 'D','E' ; a pair".toList).toOption = some [0x20004445#32] ∧
    (assembleText "SCAN_BYTE 'm'".toList).toOption = some [0x3100006D#32] ∧
    (assembleText "STATUS".toList).toOption = some [0x02000000#32] := by decide +kernel

/-- R78's errors and R79's `HEX_U32` of seven characters. -/
theorem test_assemble_errors :
    (assembleText "CRC_BYTE 256".toList).toOption = none ∧ (assembleText "STATUS 1".toList).toOption = none ∧
    (assembleText "CRC_WORD 1".toList).toOption = none ∧
    (assembleText "HEX_U32 \"1234567\"".toList).toOption = none := by decide +kernel

/-- R79: a pseudo-instruction from text, and a listing with a comment line. -/
theorem test_assemble_listing :
    (assembleListing ["; a checksum".toList, "CRC_COMPUTE 0x31, 50".toList, "SCAN_STR \"m=\"".toList]).toOption
      = some [0x10000000#32, 0x11000031#32, 0x11000032#32, 0x12000000#32, 0x3100006D#32,
        0x3100003D#32] := by decide +kernel

/-! ### Witnesses -/

theorem witness_DecodedWordIsItsEncoding :
    decode 0x2000FF00#32 = .command (.hexDec 0xFF#8 0x00#8) := by decide

theorem witness_IllegalWordsRaise :
    [0x34000000#32, 0x00010000#32, 0x31000100#32, 0x10000001#32].map decode =
      List.replicate 4 .illegal ∧
    busy.Running ∧ stuck.Faulted := by decide

theorem witness_StepRunsPresentedCommand :
    (busy.present 0x31000073#32).port = .command 0x31000073#32 :: [] ∧
    decode 0x31000073#32 = .command (.scanByte 0x73#8) := by decide

theorem witness_ResetActionSetsEveryField :
    stuck.block.Invariant ∧ (stuck.setPort [.hardReset, .idle]).port = .hardReset :: [.idle] ∧
    (stuck.present 0x01000000#32).port = .command 0x01000000#32 :: [] := by decide

theorem witness_IdleStepHoldsState :
    busy.block.Invariant ∧ busy.port = [] ∧
    (busy.setPort [.idle, .hardReset]).port = .idle :: [.hardReset] := by decide

theorem witness_RunIsStepsOverThePort :
    (busy.setPort [.command 0x12000000#32, .command 0xFF000000#32, .idle]).port =
      [0x12000000#32, 0xFF000000#32].map PortInput.command ++ [.idle] := by decide

theorem witness_CommandCycleCases : busy.block.Invariant ∧ stuck.block.Invariant := by decide

theorem witness_EveryStepIsDefined : stuck.block.Invariant := by decide

theorem witness_FaultStateIgnoresOtherWords :
    stuck.Faulted ∧ (0x01000001#32 : Word) ≠ 0x02000000#32 ∧ (0x01000001#32 : Word) ≠ 0x01000000#32 := by
  decide

theorem witness_FaultStateLeftOnlyByReset :
    stuck.block.errCode ≠ 0x00#8 ∧ (∃ t, step (stuck.present 0x02000000#32) = .next t) ∧
    (∃ t, step (stuck.setPort [.hardReset]) = .next t) ∧
    ∃ t, step (stuck.present 0x01000000#32) = .next t :=
  ⟨by decide, ⟨_, rfl⟩, ⟨_, rfl⟩, ⟨_, rfl⟩⟩

theorem witness_RaisingWordHasNoOtherEffect :
    busy.Running ∧ (∃ t, execWord 0x20004730#32 busy = .next t ∧ t.block.errCode ≠ 0x00#8) ∧
    ∃ t, execWord 0x11000100#32 busy = .next t ∧ t.block.errCode ≠ 0x00#8 :=
  ⟨by decide, ⟨_, rfl, by decide⟩, ⟨_, rfl, by decide⟩⟩

theorem witness_CauseOfEachError :
    busy.Running ∧ (∃ t, execWord 0x20007879#32 busy = .next t) ∧
    decode 0x20007879#32 = .command (.hexDec 0x78#8 0x79#8) ∧ nib 0x78#8 = none ∧
    (∃ t, execWord 0x2000302F#32 busy = .next t) ∧
    decode 0x2000302F#32 = .command (.hexDec 0x30#8 0x2F#8) ∧ nib 0x30#8 ≠ none ∧ nib 0x2F#8 = none ∧
    (∃ t, execWord 0x23000067#32 busy = .next t) ∧
    decode 0x23000067#32 = .command (.hexPush 0x67#8) ∧ nib 0x67#8 = none ∧
    ∃ t, execWord 0x34000000#32 busy = .next t ∧ t.block.errCode = 0x07#8 :=
  ⟨by decide, ⟨_, rfl⟩, by decide, by decide, ⟨_, rfl⟩, by decide, by decide, by decide, ⟨_, rfl⟩,
    by decide, by decide, ⟨_, rfl, by decide⟩⟩

theorem witness_StepKeepsInvariant :
    busy.block.Invariant ∧ ∃ t, step (busy.present 0x31000073#32) = .next t := ⟨by decide, ⟨_, rfl⟩⟩

theorem witness_StepKeepsErrorContext :
    stuck.block.ErrorContext ∧ busy.block.ErrorContext ∧ (∃ t, step stuck = .next t) ∧
    ∃ t, step (busy.present 0x20004730#32) = .next t := ⟨by decide, by decide, ⟨_, rfl⟩, ⟨_, rfl⟩⟩

theorem witness_StepKeepsHexFits :
    busy.block.HexFits ∧ ∃ t, step (busy.present 0x23000046#32) = .next t := 
  ⟨by simp [Block.HexFits, busy, busyBlock], ⟨_, rfl⟩⟩

theorem witness_BrokenInvariantIsRefused : ¬ broken.block.Invariant := by decide

theorem witness_EachFieldHasOnlyItsWriters :
    (∃ t, exec .scanSkip busy = .next t) ∧ Instr.scanSkip ≠ .sreset ∧
    writesResult .scanSkip = false ∧ ∃ t, exec .crcRead busy = .next t :=
  ⟨⟨_, rfl⟩, by decide, by decide, ⟨_, rfl⟩⟩

theorem witness_UnitsAreDisjoint :
    (∃ t, exec (.scanByte 0x3D#8) busy = .next t) ∧ unitOf (.scanByte 0x3D#8) ≠ .crc ∧
    unitOf (.scanByte 0x3D#8) ≠ .hex ∧ (∃ t, exec (.hexPush 0x46#8) busy = .next t) ∧
    unitOf (.hexPush 0x46#8) ≠ .scanner := ⟨⟨_, rfl⟩, by decide, by decide, ⟨_, rfl⟩, by decide⟩

theorem witness_ScannerStateIsInvisible :
    busy.block.Invariant ∧
    (busy.setBlock { busyBlock with messCnt := 0, maskCnt := 4 }).block.Invariant ∧
    sameButScanner busy (busy.setBlock { busyBlock with messCnt := 0, maskCnt := 4 }) ∧
    decode 0x12000000#32 = .command .crcRead ∧ unitOf .crcRead ≠ .scanner ∧ Instr.crcRead ≠ .status :=
  ⟨by decide, by decide, rfl, by decide, by decide, by decide⟩

theorem witness_StepKeepsParameters : ∃ t, step (busy.present 0x10000000#32) = .next t := ⟨_, rfl⟩

theorem witness_ReadsHaveNoSideEffect :
    isRead .status = true ∧ (∃ t, exec .status stuck = .next t) ∧ isRead .scanPos = true ∧
    ∃ t, exec .scanPos busy = .next t := ⟨by decide, ⟨_, rfl⟩, by decide, ⟨_, rfl⟩⟩

/-- The hypotheses of the statements about NOP, SRESET and STATUS. -/
theorem witness_blockControl : busy.block.Invariant ∧ stuck.block.Invariant := by decide

/-- The hypotheses of the statements about the commands with no operand and about CRC_BYTE, HEX_ENC
and SCAN_BYTE, CrcCommandsCompute, CrcReadGivesPrefix, MarkerEventsComeFromEquals,
ScannerTransitionTable and EncodeU32MirrorsDecode. -/
theorem witness_commands : busy.Running ∧ stuck.Faulted := by decide

theorem witness_HexDecDecodesOrRaises :
    busy.Running ∧ stuck.Faulted ∧ nib 0x66#8 = some 15#4 ∧ nib 0x46#8 = some 15#4 ∧
    nib 0x47#8 = none := by decide

theorem witness_HexPushShiftsOrRaises :
    busy.Running ∧ stuck.Faulted ∧ nib 0x39#8 = some 9#4 ∧ nib 0x3A#8 = none := by decide

theorem witness_HexRoundTrips : busy.Running ∧ nib 0x41#8 ≠ none ∧ nib 0x66#8 ≠ none := by decide

theorem witness_PushedDigitsFillAccumulator :
    busy.Running ∧ [0x31#8, 0x32#8, 0x33#8, 0x34#8, 0x35#8, 0x36#8, 0x37#8, 0x38#8, 0x39#8].mapM nib =
      some [1#4, 2#4, 3#4, 4#4, 5#4, 6#4, 7#4, 8#4, 9#4] := by decide

theorem witness_DecodeU32IsBigEndian :
    busy.Running ∧ decodeByte 0x44#8 0x45#8 = some 0xDE#8 ∧ decodeByte 0x41#8 0x44#8 = some 0xAD#8 ∧
    decodeByte 0x42#8 0x45#8 = some 0xBE#8 ∧ decodeByte 0x45#8 0x46#8 = some 0xEF#8 := by decide

theorem witness_InvalidDigitStopsDecode :
    busy.Running ∧ [0x31#8, 0x66#8].mapM nib = some [1#4, 15#4] ∧ nib 0x67#8 = none := by decide

theorem witness_ScannerIsExact :
    State.reset.Running ∧ State.reset.block.messCnt = 0 ∧ State.reset.block.maskCnt = 0 := by decide

theorem witness_PositionCountsStreamBytes :
    busy.Running ∧ ∀ i ∈ [Instr.scanByte 0x6D#8, .scanSkip], i = .scanSkip ∨ ∃ d, i = .scanByte d := by
  refine ⟨by decide, ?_⟩
  intro i hi
  rcases List.mem_pair.mp hi with rfl | rfl
  · exact .inr ⟨_, rfl⟩
  · exact .inl rfl

theorem witness_WellFormedLinesAssemble :
    operandCount "HEX_DEC" ≠ none ∧ AsmLine.wellFormed ⟨"HEX_DEC", [.char 'D', .number 255]⟩ = true ∧
    AsmLine.wellFormed ⟨"HEX_DEC", [.char 'D', .number 256]⟩ = false ∧
    AsmOperand.byte? (.char 'D') = some 0x44#8 ∧ AsmOperand.byte? (.number 255) = some 0xFF#8 ∧
    operandCount "CRC_WORD" = none := by decide +kernel

theorem witness_WellFormedLinesAssemble_unknown :
    "CRC_WORD" ∉ ["CRC_BYTES", "CRC_ZEROS", "CRC_COMPUTE", "HEX_U32", "SCAN_STR", "SCAN_SKIPN"] := by
  simp

theorem witness_PseudoInstructionsExpand :
    [AsmOperand.char '0', .number 255].mapM AsmOperand.byte? = some [0x30#8, 0xFF#8] ∧
    AsmOperand.byte? (.number 256) = none ∧
    "FFFFFFFF".toList.mapM charCode? = some (List.replicate 8 0x46#8) ∧
    "FFFFFFFF".toList.length = 8 ∧ "FFFFFFF".toList.length ≠ 8 := by decide +kernel

theorem witness_PseudoInstructionsExpand_errors :
    (∀ n, [AsmOperand.char '0'] ≠ [.number n]) ∧
    ∀ cs bs, cs.mapM charCode? = some bs → [AsmOperand.number 8] ≠ [.string cs] :=
  ⟨fun _ h => by simp at h, fun _ _ _ h => by simp at h⟩

end Sys2Proof.Tests
end

section
/-! PROOFS. Bit reversal (spec/10_state.md R10) and the two directions of the CRC update
(spec/41_crc32.md R120, R121): bit reversal carries XOR to XOR, a left shift to a right shift and
CRC_POLY to CRC_RPOLY, so it carries each direct bit step to a reflected one. -/

namespace Sys2Proof.Machine

/-! ### Bit reversal -/

theorem getLsbD_bitrev32 (v : Word) (i : Nat) : (bitrev32 v).getLsbD i = v.getMsbD i :=
  BitVec.getLsbD_reverse

@[simp] theorem bitrev32_bitrev32 (v : Word) : bitrev32 (bitrev32 v) = v :=
  BitVec.reverse_reverse_eq

@[simp] theorem bitrev32_xor (v w : Word) : bitrev32 (v ^^^ w) = bitrev32 v ^^^ bitrev32 w := by
  ext i hi
  simp only [← BitVec.getLsbD_eq_getElem, getLsbD_bitrev32, BitVec.getLsbD_xor, BitVec.getMsbD_xor]

@[simp] theorem bitrev32_shiftLeft (v : Word) (n : Nat) : bitrev32 (v <<< n) = bitrev32 v >>> n := by
  ext i hi
  simp only [← BitVec.getLsbD_eq_getElem, getLsbD_bitrev32, BitVec.getLsbD_ushiftRight,
    BitVec.getMsbD_shiftLeft, Nat.add_comm]

/-- A reversed byte in the top eight bits, seen in reversed bit order, is the byte in the low bits. -/
theorem bitrev32_zext32_reverse_shiftLeft (b : Byte) :
    bitrev32 (zext32 b.reverse <<< 24) = zext32 b := by
  rw [bitrev32_shiftLeft]
  ext i hi
  have hrev : b.reverse.getMsbD i = b.getLsbD i := BitVec.getMsbD_reverse
  simp [← BitVec.getLsbD_eq_getElem, getLsbD_bitrev32, zext32, hrev, hi]

/-- The reflected polynomial is the direct one in reversed bit order (R120). -/
theorem bitrev32_crcPoly : bitrev32 crcPoly = crcRPoly := by decide +kernel

/-! ### The two directions of the update -/

/-- One direct bit step, seen in reversed bit order, is one reflected bit step (R121). -/
theorem bitrev32_semiconj_crcBit :
    Function.Semiconj bitrev32 crcBitDirect crcBitReflected := by
  intro r
  have hbit : (bitrev32 r).getLsbD 0 = r.getLsbD 31 := getLsbD_bitrev32 r 0
  unfold crcBitDirect crcBitReflected
  rw [hbit]
  split
  · rw [bitrev32_xor, bitrev32_shiftLeft, bitrev32_crcPoly]
  · rw [bitrev32_shiftLeft]

/-- Settles O34: bit reversal carries the register XORed with the byte from the direct form to the
reflected one, and then each of the eight bit steps. -/
theorem crcDirectionsMirror : Obligations.CrcDirectionsMirror := by
  intro r b
  symm
  calc bitrev32 (crcUpdate false (bitrev32 r) b.reverse)
      = crcBitReflected^[8] (bitrev32 (bitrev32 r ^^^ (zext32 b.reverse <<< 24))) :=
        (bitrev32_semiconj_crcBit.iterate_right 8).eq _
    _ = crcBitReflected^[8] (r ^^^ zext32 b) := by
        rw [bitrev32_xor, bitrev32_bitrev32, bitrev32_zext32_reverse_shiftLeft]
    _ = crcUpdate true r b := rfl

end Sys2Proof.Machine
end

section
/-! PROOFS. The decoder and the encoder are inverse to each other (spec/30_encoding.md R71, R73, R75). -/

namespace Sys2Proof

/-- R71, R73: the decoder reads a command's own fields back. -/
theorem decode_encode (i : Instr) : decode (encode i) = .command i := by
  obtain ⟨hop, hrsv, ha, hb⟩ := Laws.fields_of_word i.opcode 0#8 i.operandA i.operandB
  unfold decode encode
  rw [hop, hrsv, ha, hb]
  cases i <;> rfl

/-- The fields of R71 are all of a word. -/
theorem append_fields (w : Word) : opField w ++ rsvField w ++ aField w ++ bField w = w := by
  have h₁ : opField w ++ rsvField w = w.extractLsb' 16 16 :=
    BitVec.extractLsb'_append_extractLsb'_eq_extractLsb' rfl
  have h₂ : w.extractLsb' 16 16 ++ aField w = w.extractLsb' 8 24 :=
    BitVec.extractLsb'_append_extractLsb'_eq_extractLsb' rfl
  have h₃ : w.extractLsb' 8 24 ++ bField w = w.extractLsb' 0 32 :=
    BitVec.extractLsb'_append_extractLsb'_eq_extractLsb' rfl
  rw [h₁, h₂, h₃, BitVec.extractLsb'_eq_self]

theorem decodeNone_eq_command {i j : Instr} {a b : Byte} :
    decodeNone i a b = .command j ↔ i = j ∧ a = 0#8 ∧ b = 0#8 := by
  unfold decodeNone
  split <;> simp_all

theorem decodeB_eq_command {mk : Byte → Instr} {j : Instr} {a b : Byte} :
    decodeB mk a b = .command j ↔ mk b = j ∧ a = 0#8 := by
  unfold decodeB
  split <;> simp_all

/-- The fields that decode to a command are that command's own (R73). -/
theorem decodeFields_eq_command {op a b : Byte} {i : Instr} (h : decodeFields op a b = .command i) :
    op = i.opcode ∧ a = i.operandA ∧ b = i.operandB := by
  unfold decodeFields at h
  split at h
  case h_17 => cases h
  all_goals
    next hop =>
      simp only [decodeNone_eq_command, decodeB_eq_command, Decoded.command.injEq] at h
      obtain ⟨rfl, rfl, rfl⟩ := h
      exact ⟨BitVec.eq_of_toNat_eq hop, rfl, rfl⟩

/-- R75: a word that decodes to a command is that command's encoding, so no bit of it is ignored. -/
theorem encode_of_decode {w : Word} {i : Instr} (h : decode w = .command i) : encode i = w := by
  unfold decode at h
  split at h
  · next hrsv =>
    obtain ⟨hop, ha, hb⟩ := decodeFields_eq_command h
    rw [← append_fields w, hrsv, hop, ha, hb]
    rfl
  · cases h

end Sys2Proof
end

section
/-! PROOFS. What each command writes and what it leaves (spec/10_state.md R21 to R30, R37): the frame of
the three effects that are more than writes of the fields, then of every command's effect. -/

namespace Sys2Proof.Machine

/-! ### The effects of HEX_DEC, HEX_PUSH and SCAN_BYTE -/

/-- What HEX_DEC can do: raise for the first character, raise for the second, or write `res` (R152). -/
theorem Block.hexDec_cases (b : Block) (c1 c2 : Byte) :
    (nib c1 = none ∧ b.hexDec c1 c2 = b.raise .invalidHexDigit 0#1 c1) ∨
    (nib c1 ≠ none ∧ nib c2 = none ∧ b.hexDec c1 c2 = b.raise .invalidHexDigit 1#1 c2) ∨
    (∃ h l, nib c1 = some h ∧ nib c2 = some l ∧ b.hexDec c1 c2 = b.setRes (zext32 (h ++ l))) := by
  unfold Block.hexDec
  cases nib c1 <;> cases nib c2 <;> simp

/-- What HEX_PUSH can do: raise, or write the accumulator and the count (R155). -/
theorem Block.hexPush_cases (b : Block) (c : Byte) :
    (nib c = none ∧ b.hexPush c = b.raise .invalidHexDigit 0#1 c) ∨
    (∃ n, nib c = some n ∧
      b.hexPush c = b.setHex ((b.hexAcc <<< 4) ||| zext32 n) (saturatingSucc b.hexCnt)) := by
  unfold Block.hexPush
  cases nib c <;> simp

/-- HEX_DEC writes no field but `res` and the error fields. -/
@[simp] theorem Block.hexDec_frame (b : Block) (c1 c2 : Byte) :
    (b.hexDec c1 c2).crcReg = b.crcReg ∧ (b.hexDec c1 c2).hexAcc = b.hexAcc ∧
    (b.hexDec c1 c2).hexCnt = b.hexCnt ∧ (b.hexDec c1 c2).messCnt = b.messCnt ∧
    (b.hexDec c1 c2).maskCnt = b.maskCnt ∧ (b.hexDec c1 c2).scanPos = b.scanPos := by
  obtain ⟨-, e⟩ | ⟨-, -, e⟩ | ⟨h, l, -, -, e⟩ := b.hexDec_cases c1 c2 <;> simp [e]

/-- HEX_PUSH writes no field but the hex unit's and the error fields. -/
@[simp] theorem Block.hexPush_frame (b : Block) (c : Byte) :
    (b.hexPush c).crcReg = b.crcReg ∧ (b.hexPush c).messCnt = b.messCnt ∧
    (b.hexPush c).maskCnt = b.maskCnt ∧ (b.hexPush c).scanPos = b.scanPos ∧
    (b.hexPush c).res = b.res := by
  obtain ⟨-, e⟩ | ⟨n, -, e⟩ := b.hexPush_cases c <;> simp [e]

/-- SCAN_BYTE writes no field but the scanner's and `res`, and advances the position by one (R186). -/
@[simp] theorem Block.scanByte_frame (b : Block) (d : Byte) :
    (b.scanByte d).crcReg = b.crcReg ∧ (b.scanByte d).hexAcc = b.hexAcc ∧
    (b.scanByte d).hexCnt = b.hexCnt ∧ (b.scanByte d).scanPos = b.scanPos + 1#32 ∧
    (b.scanByte d).errCode = b.errCode ∧ (b.scanByte d).errIdx = b.errIdx ∧
    (b.scanByte d).errData = b.errData := ⟨rfl, rfl, rfl, rfl, rfl, rfl, rfl⟩

/-! ### The writers of each field -/

/-- `x` differs from `b` only in fields that name `i` as a writer (R21 to R30). -/
structure OnlyItsWriters (i : Instr) (b x : Block) : Prop where
  crcReg : i ≠ .crcInit → (∀ d, i ≠ .crcByte d) → x.crcReg = b.crcReg
  hex : i ≠ .hexClr → (∀ d, i ≠ .hexPush d) → x.hexAcc = b.hexAcc ∧ x.hexCnt = b.hexCnt
  counters : i ≠ .scanClr → (∀ d, i ≠ .scanByte d) →
    x.messCnt = b.messCnt ∧ x.maskCnt = b.maskCnt
  scanPos : i ≠ .scanClr → (∀ d, i ≠ .scanByte d) → i ≠ .scanSkip → x.scanPos = b.scanPos
  res : writesResult i = false → x.res = b.res
  error : (∀ c1 c2, i ≠ .hexDec c1 c2) → (∀ d, i ≠ .hexPush d) →
    x.errCode = b.errCode ∧ x.errIdx = b.errIdx ∧ x.errData = b.errData

theorem OnlyItsWriters.refl (i : Instr) (b : Block) : OnlyItsWriters i b b := by
  constructor <;> simp

theorem commandEffect_onlyItsWriters (c : Config) {i : Instr} (hr : i ≠ .sreset) (b : Block) :
    OnlyItsWriters i b (commandEffect c i b) := by
  cases i with
  | sreset => contradiction
  | _ => constructor <;> simp [commandEffect, writesResult]

/-- What holds of the block and of the command's effect on it holds of the block a command leaves. -/
theorem block_of_exec {i : Instr} {s t : State} {P : Block → Prop} (h : exec i s = .next t)
    (hs : P s.block) (he : P (commandEffect s.config i s.block)) : P t.block := by
  obtain ⟨-, rfl⟩ := exec_eq_next h
  rw [State.setBlock_block]
  split
  · exact hs
  · exact he

theorem exec_onlyItsWriters {i : Instr} {s t : State} (h : exec i s = .next t) (hr : i ≠ .sreset) :
    OnlyItsWriters i s.block t.block :=
  block_of_exec h (.refl i s.block) (commandEffect_onlyItsWriters s.config hr s.block)

/-- Settles O21: the effect of each command writes only fields that name it. -/
theorem eachFieldHasOnlyItsWriters : Obligations.EachFieldHasOnlyItsWriters := by
  intro i s t h hr
  have w := exec_onlyItsWriters h hr
  exact ⟨w.crcReg, w.hex, w.counters, w.scanPos, w.res, w.error⟩

/-- Settles O22: the writers of a unit's fields are all commands of that unit. -/
theorem unitsAreDisjoint : Obligations.UnitsAreDisjoint := by
  intro i s t h hr
  have w := exec_onlyItsWriters h hr
  refine ⟨fun hu => ?_, fun hu => ?_, fun hu => ?_⟩
  · exact w.crcReg (by rintro rfl; exact hu rfl) (by rintro d rfl; exact hu rfl)
  · exact w.hex (by rintro rfl; exact hu rfl) (by rintro d rfl; exact hu rfl)
  · have hc : i ≠ .scanClr := by rintro rfl; exact hu rfl
    have hb : ∀ d, i ≠ .scanByte d := by rintro d rfl; exact hu rfl
    obtain ⟨hm, hk⟩ := w.counters hc hb
    exact ⟨hm, hk, w.scanPos hc hb (by rintro rfl; exact hu rfl)⟩

end Sys2Proof.Machine
end

section
/-! PROOFS. The invariant of spec/10_state.md R36: every effect, word and step keeps it, and a state that
breaks it is refused. -/

namespace Sys2Proof.Machine

/-! ### One byte on the scanner's counters -/

/-- The bytes of the two literals (R180). -/
def literalBytes : List Byte := [0x6D#8, 0x65#8, 0x73#8, 0x3D#8, 0x61#8, 0x6B#8]

theorem mem_literalBytes (c : Fin 5) : litMess[c] ∈ literalBytes ∧ litMask[c] ∈ literalBytes := by
  revert c; decide

/-- A byte that is neither the letter awaited nor the first one restarts a counter at 0 (R181). -/
theorem litStep_of_ne {L : Vector Byte 5} {c : Fin 5} {d : Byte} (hc : d ≠ L[c]) (h₀ : d ≠ L[0]) :
    litStep L c d = (0, false) := by
  simp only [litStep, hc, h₀, if_false]
  rfl

/-- A byte of neither literal clears both counters. -/
theorem litStep_of_not_mem_literalBytes {d : Byte} (hd : d ∉ literalBytes) (m k : Fin 5) :
    litStep litMess m d = (0, false) ∧ litStep litMask k d = (0, false) := by
  have hne : ∀ e ∈ literalBytes, d ≠ e := fun e he h => hd (h ▸ he)
  exact ⟨litStep_of_ne (hne _ (mem_literalBytes m).1) (hne _ (mem_literalBytes 0).1),
    litStep_of_ne (hne _ (mem_literalBytes k).2) (hne _ (mem_literalBytes 0).2)⟩

/-- A byte of a literal takes each of R35's eight pairs to one of them. -/
theorem litStep_mem_counterPairs_of_mem_literalBytes :
    ∀ d ∈ literalBytes, ∀ p ∈ counterPairs,
      ((litStep litMess p.1 d).1, (litStep litMask p.2 d).1) ∈ counterPairs := by
  decide

/-- Every byte takes each of R35's eight pairs to one of them. -/
theorem litStep_mem_counterPairs (d : Byte) {m k : Fin 5} (h : (m, k) ∈ counterPairs) :
    ((litStep litMess m d).1, (litStep litMask k d).1) ∈ counterPairs := by
  by_cases hd : d ∈ literalBytes
  · exact litStep_mem_counterPairs_of_mem_literalBytes d hd (m, k) h
  · obtain ⟨hm, hk⟩ := litStep_of_not_mem_literalBytes hd m k
    rw [hm, hk]
    decide

/-! ### Effects, words and steps -/

theorem Block.reset_invariant : Block.reset.Invariant := by decide

/-- A raise keeps the counters, so it keeps the invariant when its code is one R36 names. -/
theorem Block.raise_invariant {b : Block} (h : b.Invariant) {e : ErrorKind}
    (he : e.code ∈ legalErrCodes) (idx : BitVec 1) (data : Byte) : (b.raise e idx data).Invariant :=
  ⟨h.1, he⟩

theorem commandEffect_invariant (c : Config) (i : Instr) {b : Block} (h : b.Invariant) :
    (commandEffect c i b).Invariant := by
  cases i with
  | sreset => exact Block.reset_invariant
  | hexDec c1 c2 =>
    simp only [commandEffect]
    obtain ⟨-, e⟩ | ⟨-, -, e⟩ | ⟨n, l, -, -, e⟩ := b.hexDec_cases c1 c2 <;> rw [e]
    · exact Block.raise_invariant h (by decide) _ _
    · exact Block.raise_invariant h (by decide) _ _
    · exact h
  | hexPush d =>
    simp only [commandEffect]
    obtain ⟨-, e⟩ | ⟨n, -, e⟩ := b.hexPush_cases d <;> rw [e]
    · exact Block.raise_invariant h (by decide) _ _
    · exact h
  | scanClr => exact ⟨Block.reset_invariant.1, h.2⟩
  | scanByte d => exact ⟨litStep_mem_counterPairs d h.1, h.2⟩
  | _ => exact h

theorem wordEffect_invariant (c : Config) (w : Word) {b : Block} (h : b.Invariant) :
    (wordEffect c w b).Invariant := by
  rcases hd : decode w with i | _
  · rw [wordEffect_of_command hd]
    dsimp only
    split
    · exact h
    · exact commandEffect_invariant c i h
  · rw [wordEffect_of_illegal hd]
    dsimp only
    split
    · exact h
    · exact Block.raise_invariant h (by decide) _ _

theorem step_invariant {s t : State} (h : step s = .next t) : t.block.Invariant := by
  obtain ⟨hs, b, rfl, ⟨-, rfl⟩ | ⟨-, rfl⟩ | ⟨w, -, rfl⟩⟩ := step_eq_next h
  · exact Block.reset_invariant
  · exact hs
  · exact wordEffect_invariant s.config w hs

/-- R35's eight pairs, as the values of the counters. -/
theorem counterPairs_val {m k : Fin 5} (h : (m, k) ∈ counterPairs) :
    (m.val, k.val) ∈ [(0, 0), (1, 1), (2, 0), (3, 0), (4, 0), (0, 2), (0, 3), (0, 4)] :=
  List.mem_map_of_mem (f := fun p : Fin 5 × Fin 5 => (p.1.val, p.2.val)) h

/-- Settles O16: each of the three kinds of step leaves a block that meets the invariant. -/
theorem stepKeepsInvariant : Obligations.StepKeepsInvariant := by
  intro s t _ h
  have hi := step_invariant h
  exact ⟨Nat.le_of_lt_succ t.block.messCnt.isLt, Nat.le_of_lt_succ t.block.maskCnt.isLt,
    Nat.le_of_lt_succ t.block.hexCnt.isLt, counterPairs_val hi.1, hi.2, hi⟩

/-! ### Refusals, parameters and the reset state -/

theorem exec_refused {s : State} (h : ¬ s.block.Invariant) (i : Instr) :
    exec i s = .refused .invariantViolated := by
  rw [exec_eq_applyToBlock, applyToBlock_refused h]

theorem execWord_refused {s : State} (h : ¬ s.block.Invariant) (w : Word) :
    execWord w s = .refused .invariantViolated := by
  rw [execWord_eq_applyToBlock, applyToBlock_refused h]

/-- Settles O20: whatever the input, a step goes through `applyToBlock`, which refuses. -/
theorem brokenInvariantIsRefused : Obligations.BrokenInvariantIsRefused := by
  intro s h
  refine ⟨?_, execWord_refused h, exec_refused h⟩
  have hn : ¬ (nextInput s).2.block.Invariant := by rwa [nextInput_snd]
  obtain ⟨-, e⟩ | ⟨-, e⟩ | ⟨w, -, e⟩ := step_cases s <;> rw [e]
  · exact applyToBlock_refused hn
  · exact applyToBlock_refused hn
  · exact execWord_refused hn w

/-- Settles O24: a step writes only the block, once the port's first input is gone. -/
theorem stepKeepsParameters : Obligations.StepKeepsParameters := by
  intro s t h
  obtain ⟨-, b, rfl, -⟩ := step_eq_next h
  exact ⟨rfl, rfl⟩

/-- Settles O19: each part is a closed fact about the literal reset state. -/
theorem resetStateMeetsInvariants : Obligations.ResetStateMeetsInvariants :=
  ⟨rfl, Block.reset_invariant, by decide, by decide, by decide, rfl, rfl, by decide⟩

end Sys2Proof.Machine
end

section
/-! PROOFS. The STATUS word, field by field (spec/10_state.md R34), and the command that writes it
(spec/40_block_control.md R102). -/

namespace Sys2Proof.Machine

/-- R34: each field of the STATUS word stands at its bits, and the reserved bits are 0. -/
theorem Block.statusWord_fields (b : Block) :
    b.statusWord.extractLsb' 0 8 = b.errCode ∧
    b.statusWord.extractLsb' 8 4 = BitVec.ofNat 4 b.hexCnt.val ∧
    b.statusWord.extractLsb' 12 3 = BitVec.ofNat 3 b.messCnt.val ∧
    b.statusWord.extractLsb' 15 1 = 0#1 ∧
    b.statusWord.extractLsb' 16 3 = BitVec.ofNat 3 b.maskCnt.val ∧
    b.statusWord.extractLsb' 19 4 = 0#4 ∧
    b.statusWord.extractLsb' 23 1 = b.errIdx ∧
    b.statusWord.extractLsb' 24 8 = b.errData := by
  unfold Block.statusWord
  refine ⟨?_, ?_, ?_, ?_, ?_, ?_, ?_, ?_⟩ <;>
    simp (disch := omega) only [BitVec.extractLsb'_append_eq_of_add_le,
      BitVec.extractLsb'_append_eq_of_le, Nat.sub_self, Nat.reduceSub, BitVec.extractLsb'_eq_self]

theorem exec_status_of_invariant {s : State} (h : s.block.Invariant) :
    exec .status s = .next (s.setBlock (s.block.setRes s.block.statusWord)) := by
  rw [exec_eq_applyToBlock, applyToBlock_of_invariant h]
  simp [commandEffect]

/-- Settles O28: the decoder has STATUS from its one word, and the fields of the word written are those
of the layout, the counters being too small to lose a bit. -/
theorem statusWritesStatusWord : Obligations.StatusWritesStatusWord := by
  refine ⟨fun w => ⟨fun h => (encode_of_decode h).symm, ?_⟩, fun s h => ⟨s.block.statusWord, ?_⟩⟩
  · rintro rfl
    exact decode_encode .status
  · obtain ⟨hcode, hhex, hmess, hz₁, hmask, hz₂, hidx, hdata⟩ := s.block.statusWord_fields
    refine ⟨exec_status_of_invariant h, hcode, ?_, ?_, hz₁, ?_, hz₂, hidx, hdata⟩
    · rw [hhex, BitVec.toNat_ofNat]; omega
    · rw [hmess, BitVec.toNat_ofNat]; omega
    · rw [hmask, BitVec.toNat_ofNat]; omega

end Sys2Proof.Machine
end

section
/-! PROOFS. Runs of words from states that differ only in the scanner's own fields (spec/10_state.md R37):
writing those fields commutes with the effect of every word that neither reads nor writes them. -/

namespace Sys2Proof.Machine

/-- A block with the scanner's own fields overwritten (R37). -/
def Block.setScanner (b : Block) (m k : Fin 5) (p : Word) : Block :=
  (b.setCounters m k).setScanPos p

/-- Two states differ only in the scanner's fields when one is the other with them overwritten. -/
theorem sameButScanner_iff {s t : State} :
    sameButScanner s t ↔ ∃ m k p, t = s.setBlock (s.block.setScanner m k p) := by
  constructor
  · exact fun h => ⟨t.block.messCnt, t.block.maskCnt, t.block.scanPos, h⟩
  · rintro ⟨m, k, p, rfl⟩
    rfl

/-- Overwriting the scanner's fields commutes with a command that neither reads nor writes them: of the
other units' commands only STATUS reads them (R37) and only SRESET writes them. -/
theorem commandEffect_setScanner (c : Config) {i : Instr} (hu : unitOf i ≠ .scanner)
    (hs : i ≠ .status) (hr : i ≠ .sreset) (b : Block) (m k : Fin 5) (p : Word) :
    commandEffect c i (b.setScanner m k p) = (commandEffect c i b).setScanner m k p := by
  cases i with
  | sreset | status => contradiction
  | scanClr | scanByte | scanSkip | scanPos => exact absurd rfl hu
  | hexDec c1 c2 =>
    simp only [commandEffect, Block.hexDec]
    cases nib c1 <;> cases nib c2 <;> rfl
  | hexPush d =>
    simp only [commandEffect, Block.hexPush]
    cases nib d <;> rfl
  | _ => rfl

/-- A word that is neither a scanner command nor STATUS gives blocks that differ only in the scanner's
fields the same effect but for them. -/
theorem wordEffect_setScanner (c : Config) {w : Word}
    (hw : ∀ i, decode w = .command i → unitOf i ≠ .scanner ∧ i ≠ .status)
    (b : Block) (m k : Fin 5) (p : Word) :
    ∃ m' k' p', wordEffect c w (b.setScanner m k p) = (wordEffect c w b).setScanner m' k' p' := by
  have hf : (b.setScanner m k p).inFault = b.inFault := rfl
  rcases hd : decode w with i | _
  · obtain ⟨hu, hs⟩ := hw i hd
    simp only [wordEffect_of_command hd, hf]
    by_cases hr : i = .sreset
    · subst hr
      exact ⟨0, 0, 0#32, by rw [if_neg (by simp), if_neg (by simp)]; rfl⟩
    · refine ⟨m, k, p, ?_⟩
      split
      · rfl
      · exact commandEffect_setScanner c hu hs hr b m k p
  · simp only [wordEffect_of_illegal hd, hf]
    refine ⟨m, k, p, ?_⟩
    split <;> rfl

/-- From a state that meets the invariant every word has its effect. -/
theorem execWord_of_invariant {s : State} (h : s.block.Invariant) (w : Word) :
    execWord w s = .next (s.setBlock (wordEffect s.config w s.block)) := by
  rw [execWord_eq_applyToBlock, applyToBlock_of_invariant h]

/-- Settles O23, by induction on the words: each leaves two states that meet the invariant and differ
only in the scanner's fields. -/
theorem scannerStateIsInvisible : Obligations.ScannerStateIsInvisible := by
  intro ws
  induction ws with
  | nil => exact fun s t _ _ hst _ => ⟨s, t, rfl, rfl, hst⟩
  | cons w ws ih =>
    intro s t hs ht hst hws
    obtain ⟨m, k, p, rfl⟩ := sameButScanner_iff.mp hst
    obtain ⟨hw, hws⟩ := List.forall_mem_cons.mp hws
    obtain ⟨m', k', p', e⟩ := wordEffect_setScanner s.config hw s.block m k p
    rw [runWords_cons_of_next (execWord_of_invariant hs w),
      runWords_cons_of_next (execWord_of_invariant ht w)]
    refine ih _ _ (wordEffect_invariant _ w hs) (wordEffect_invariant _ w ht) ?_ hws
    exact sameButScanner_iff.mpr ⟨m', k', p', congrArg s.setBlock e⟩

end Sys2Proof.Machine
end

section
/-! PROOFS. Runs of scanner commands, and the position they leave (spec/43_marker_scanner.md R184). -/

namespace Sys2Proof.Machine

theorem execWord_encode (i : Instr) (s : State) : execWord (encode i) s = exec i s :=
  execWord_of_command (decode_encode i) s

/-- A run of commands starts with the first command's effect. -/
theorem runWords_words_cons {s : State} (h : s.Running) (i : Instr) (is : List Instr) :
    runWords (words (i :: is)) s =
      runWords (words is) (s.setBlock (commandEffect s.config i s.block)) :=
  runWords_cons_of_next ((execWord_encode i s).trans (exec_of_running h i)) (words is)

/-- Only HEX_DEC and HEX_PUSH raise, and SRESET only clears: every other command keeps the block out of
the fault state. -/
theorem running_commandEffect {s : State} (h : s.Running) {i : Instr}
    (hd : ∀ c1 c2, i ≠ .hexDec c1 c2) (hp : ∀ d, i ≠ .hexPush d) :
    (s.setBlock (commandEffect s.config i s.block)).Running := by
  refine ⟨commandEffect_invariant s.config i h.1, ?_⟩
  by_cases hr : i = .sreset
  · subst hr; rfl
  · exact ((commandEffect_onlyItsWriters s.config hr s.block).error hd hp).1.trans h.2

/-- The commands that count one stream byte (R184, R186, R187). -/
abbrev CountsByte (i : Instr) : Prop := i = .scanSkip ∨ ∃ d, i = .scanByte d

theorem commandEffect_scanPos_of_countsByte (c : Config) {i : Instr} (hi : CountsByte i) (b : Block) :
    (commandEffect c i b).scanPos = b.scanPos + 1#32 := by
  obtain rfl | ⟨d, rfl⟩ := hi <;> simp [commandEffect]

/-- A run of commands that count one byte each advances the position by its length. -/
theorem runWords_scanPos {is : List Instr} (his : ∀ i ∈ is, CountsByte i) {s : State}
    (h : s.Running) :
    ∃ t, runWords (words is) s = .next t ∧ t.Running ∧
      t.block.scanPos = s.block.scanPos + BitVec.ofNat 32 is.length := by
  induction is generalizing s with
  | nil => exact ⟨s, rfl, h, by simp⟩
  | cons i is ih =>
    obtain ⟨hi, his⟩ := List.forall_mem_cons.mp his
    have hrun := running_commandEffect h (i := i)
      (by obtain rfl | ⟨d, rfl⟩ := hi <;> simp) (by obtain rfl | ⟨d, rfl⟩ := hi <;> simp)
    obtain ⟨t, hts, ht, hpos⟩ := ih his hrun
    refine ⟨t, by rw [runWords_words_cons h, hts], ht, ?_⟩
    calc t.block.scanPos
        = s.block.scanPos + 1#32 + BitVec.ofNat 32 is.length := by
          rw [hpos, State.setBlock_block, commandEffect_scanPos_of_countsByte _ hi]
      _ = s.block.scanPos + BitVec.ofNat 32 (is.length + 1) := by
          rw [BitVec.ofNat_add, BitVec.add_assoc, BitVec.add_comm 1#32]

/-- Settles O57: SCAN_CLR leaves the position 0, the sequence adds its length, and SCAN_POS reads it. -/
theorem positionCountsStreamBytes : Obligations.PositionCountsStreamBytes := by
  intro s is h his
  obtain ⟨t, hts, ht, hpos⟩ := runWords_scanPos his
    (running_commandEffect h (i := .scanClr) (by simp) (by simp))
  have hpos : t.block.scanPos = BitVec.ofNat 32 is.length := by
    simpa [commandEffect] using hpos
  have hrun : runWords (words (.scanClr :: is ++ [.scanPos])) s =
      .next (t.setBlock (t.block.setRes t.block.scanPos)) := by
    rw [List.cons_append, runWords_words_cons h, words, List.map_append]
    exact (runWords_append hts _).trans (runWords_words_cons ht .scanPos [])
  exact ⟨_, hrun, hpos, hpos⟩

end Sys2Proof.Machine
end

section
/-! PROOFS. The read commands (spec/20_memory.md R58): each writes `res` alone, with a value that
does not depend on `res`. -/

namespace Sys2Proof.Machine

/-- A read command's effect is a write of `res` with a value that `res` itself has no part in. -/
theorem commandEffect_of_isRead (c : Config) {i : Instr} (h : isRead i = true) :
    ∃ value : Block → Word, (∀ b, commandEffect c i b = b.setRes (value b)) ∧
      ∀ b v, value (b.setRes v) = value b := by
  cases i with
  | status => exact ⟨Block.statusWord, fun _ => rfl, fun _ _ => rfl⟩
  | crcRead => exact ⟨fun b => crcFinal c b.crcReg, fun _ => rfl, fun _ _ => rfl⟩
  | crcRaw => exact ⟨Block.crcReg, fun _ => rfl, fun _ _ => rfl⟩
  | hexAcc => exact ⟨Block.hexAcc, fun _ => rfl, fun _ _ => rfl⟩
  | scanPos => exact ⟨Block.scanPos, fun _ => rfl, fun _ _ => rfl⟩
  | _ => cases h

/-- A command acts outside the fault state, and STATUS and SRESET act in it too (R100). -/
theorem exec_of_acts {s : State} (h : s.block.Invariant) {i : Instr}
    (ha : ¬ (s.block.inFault ∧ i ≠ .status ∧ i ≠ .sreset)) :
    exec i s = .next (s.setBlock (commandEffect s.config i s.block)) := by
  rw [exec_eq_applyToBlock, applyToBlock_of_invariant h, if_neg ha]

/-- Settles O25: a read either has no effect, in the fault state, and then again none, or it writes a
value to `res` that the write leaves as it was. -/
theorem readsHaveNoSideEffect : Obligations.ReadsHaveNoSideEffect := by
  intro i s t hi h
  obtain ⟨value, hval, hkeep⟩ := commandEffect_of_isRead s.config hi
  obtain ⟨hs, ht⟩ := exec_eq_next h
  split at ht
  · rw [State.setBlock_self] at ht
    subst ht
    exact ⟨rfl, h⟩
  · next hacts =>
    rw [hval] at ht
    subst ht
    have hagain := exec_of_acts (s := s.setBlock (s.block.setRes (value s.block))) hs hacts
    refine ⟨rfl, hagain.trans ?_⟩
    rw [State.setBlock_block, State.setBlock_config, hval, hkeep]
    rfl

end Sys2Proof.Machine
end

section
/-! PROOFS. Digits pushed into the hex accumulator (spec/42_hex_codec.md R155) and the sequence that
decodes four bytes in big-endian order (spec/20_memory.md R53, R157). -/

namespace Sys2Proof.Machine

/-! ### The accumulator -/

/-- HEX_PUSH's effect for a digit of value `n` (R155). -/
def Block.pushDigit (b : Block) (n : Nibble) : Block :=
  b.setHex ((b.hexAcc <<< 4) ||| zext32 n) (saturatingSucc b.hexCnt)

theorem Block.hexPush_of_nib {c : Byte} {n : Nibble} (h : nib c = some n) (b : Block) :
    b.hexPush c = b.pushDigit n := by
  simp [Block.hexPush, Block.pushDigit, h]

/-- Shifting a digit into the accumulator appends it to the bits the accumulator holds. -/
theorem zext32_shiftLeft_or_zext32 {w : Nat} (x : BitVec w) (n : Nibble) :
    (zext32 x <<< 4) ||| zext32 n = zext32 (x ++ n) := by
  ext i hi
  simp only [zext32, ← BitVec.getLsbD_eq_getElem, BitVec.getLsbD_or, BitVec.getLsbD_shiftLeft,
    BitVec.getLsbD_setWidth, BitVec.getLsbD_append]
  by_cases h : i < 4
  · simp [h, hi]
  · have hn : n.getLsbD i = false := BitVec.getLsbD_of_ge n i (by omega)
    have hi' : i - 4 < 32 := by omega
    simp [h, hi, hn, hi']

/-- The two digits of a byte append that byte, the first the high nibble. -/
theorem Block.pushDigit_pushDigit (b : Block) {w : Nat} (x : BitVec w) (k : Fin 9) (h l : Nibble) :
    ((b.setHex (zext32 x) k).pushDigit h).pushDigit l =
      b.setHex (zext32 (x ++ (h ++ l))) (saturatingSucc (saturatingSucc k)) := by
  have hacc : (((zext32 x <<< 4) ||| zext32 h) <<< 4) ||| zext32 l = zext32 (x ++ (h ++ l)) := by
    rw [zext32_shiftLeft_or_zext32, zext32_shiftLeft_or_zext32, BitVec.append_assoc]
    simp [zext32]
  rw [← hacc]
  rfl

theorem decodeByte_eq_some {c1 c2 d : Byte} (h : decodeByte c1 c2 = some d) :
    ∃ n m, nib c1 = some n ∧ nib c2 = some m ∧ d = n ++ m := by
  unfold decodeByte at h
  split at h
  · next n m hn hm => exact ⟨n, m, hn, hm, (Option.some.inj h).symm⟩
  · cases h

/-! ### Runs of pushes -/

/-- A run of pushes of valid digits pushes their values one by one, and the block keeps running. -/
theorem runWords_hexPushes {cs : List Byte} {ns : List Nibble} (hcs : cs.mapM nib = some ns)
    {s : State} (h : s.Running) :
    runWords (words (cs.map Instr.hexPush)) s =
        .next (s.setBlock (ns.foldl Block.pushDigit s.block)) ∧
      (s.setBlock (ns.foldl Block.pushDigit s.block)).Running := by
  induction cs generalizing ns s with
  | nil =>
    cases hcs
    exact ⟨rfl, h⟩
  | cons c cs ih =>
    obtain ⟨n, hn, ns, hns, rfl⟩ : ∃ n, nib c = some n ∧
        ∃ ns', cs.mapM nib = some ns' ∧ n :: ns' = ns := by
      simpa [List.mapM_cons, Option.bind_eq_some_iff] using hcs
    have hpush : (s.setBlock (s.block.pushDigit n)).Running := h
    rw [List.map_cons, runWords_words_cons h, commandEffect, Block.hexPush_of_nib hn]
    exact ih hns hpush

/-- HEX_CLR, pushes of valid digits and HEX_ACC: the digits enter a cleared accumulator, and `res` gets
what it then holds. -/
theorem runWords_hexDecode {cs : List Byte} {ns : List Nibble} (hcs : cs.mapM nib = some ns)
    {s : State} (h : s.Running) {b : Block}
    (hb : ns.foldl Block.pushDigit (s.block.setHex 0#32 0) = b) :
    runWords (words (.hexClr :: cs.map Instr.hexPush ++ [.hexAcc])) s =
      .next (s.setBlock (b.setRes b.hexAcc)) := by
  obtain ⟨hrun, ht⟩ := runWords_hexPushes hcs
    (running_commandEffect h (i := .hexClr) (by simp) (by simp))
  simp only [commandEffect, State.setBlock_block, State.setBlock_setBlock, hb] at hrun ht
  rw [List.cons_append, runWords_words_cons h, words, List.map_append]
  exact (runWords_append hrun _).trans (runWords_words_cons ht .hexAcc [])

/-- Settles O47: each pair of digits appends its byte to the accumulator, which starts with no bits. -/
theorem decodeU32IsBigEndian : Obligations.DecodeU32IsBigEndian := by
  intro s c0 c1 c2 c3 c4 c5 c6 c7 b0 b1 b2 b3 h h0 h1 h2 h3
  obtain ⟨n0, n1, e0, e1, rfl⟩ := decodeByte_eq_some h0
  obtain ⟨n2, n3, e2, e3, rfl⟩ := decodeByte_eq_some h1
  obtain ⟨n4, n5, e4, e5, rfl⟩ := decodeByte_eq_some h2
  obtain ⟨n6, n7, e6, e7, rfl⟩ := decodeByte_eq_some h3
  have hcs : [c0, c1, c2, c3, c4, c5, c6, c7].mapM nib = some [n0, n1, n2, n3, n4, n5, n6, n7] := by
    simp [e0, e1, e2, e3, e4, e5, e6, e7]
  have hacc : [n0, n1, n2, n3, n4, n5, n6, n7].foldl Block.pushDigit (s.block.setHex 0#32 0) =
      s.block.setHex ((n0 ++ n1) ++ (n2 ++ n3) ++ (n4 ++ n5) ++ (n6 ++ n7)) 8 := by
    have hzero : (0#32 : Word) = zext32 0#0 := rfl
    simp only [List.foldl_cons, List.foldl_nil, hzero, Block.pushDigit_pushDigit,
      BitVec.zero_width_append]
    refine congrArg₂ s.block.setHex ?_ rfl
    simp [zext32]
  exact runWords_hexDecode hcs h hacc

end Sys2Proof.Machine
end

section
/-! PROOFS. Encoding a word's four bytes and decoding the characters (spec/20_memory.md R53,
spec/42_hex_codec.md R158). -/

namespace Sys2Proof.Machine

/-- `enc` gives a lowercase hex digit (R151). -/
theorem enc_isLowercaseDigit (n : Nibble) :
    (0x30 ≤ (enc n).toNat ∧ (enc n).toNat ≤ 0x39) ∨
      (0x61 ≤ (enc n).toNat ∧ (enc n).toNat ≤ 0x66) := by
  revert n; decide

@[simp] theorem nib_enc (n : Nibble) : nib (enc n) = some n := by
  revert n; decide

@[simp] theorem highNibble_append_lowNibble (d : Byte) : highNibble d ++ lowNibble d = d := by
  have h : highNibble d ++ lowNibble d = d.extractLsb' 0 8 :=
    BitVec.extractLsb'_append_extractLsb'_eq_extractLsb' rfl
  rw [h, BitVec.extractLsb'_eq_self]

/-- The two characters of a byte decode to it (R159). -/
theorem decodeByte_enc (d : Byte) :
    decodeByte (enc (highNibble d)) (enc (lowNibble d)) = some d := by
  simp [decodeByte]

/-- The two bytes of a result word whose high half is zero. -/
theorem extractLsb'_zext32_append (a b : Byte) :
    (zext32 (a ++ b)).extractLsb' 8 8 = a ∧ (zext32 (a ++ b)).extractLsb' 0 8 = b := by
  unfold zext32
  constructor
  · rw [BitVec.extractLsb'_setWidth_of_le (by omega),
      BitVec.extractLsb'_append_eq_of_le (by omega), BitVec.extractLsb'_eq_self]
  · rw [BitVec.extractLsb'_setWidth_of_le (by omega),
      BitVec.extractLsb'_append_eq_of_add_le (by omega), BitVec.extractLsb'_eq_self]

/-- The two characters of a byte, the high nibble's first (R153). -/
def hexChars (d : Byte) : List Byte := [enc (highNibble d), enc (lowNibble d)]

/-- HEX_ENC leaves the two characters of the byte in `res`, and the block running (R153). -/
theorem exec_hexEnc_of_running {s : State} (h : s.Running) (d : Byte) :
    ∃ t, exec (.hexEnc d) s = .next t ∧ t.Running ∧
      [t.block.res.extractLsb' 8 8, t.block.res.extractLsb' 0 8] = hexChars d := by
  refine ⟨_, exec_of_running h _, running_commandEffect h (by simp) (by simp), ?_⟩
  obtain ⟨hhi, hlo⟩ := extractLsb'_zext32_append (enc (highNibble d)) (enc (lowNibble d))
  simp [commandEffect, hexChars, hhi, hlo]

/-- Settles O49: the characters of each byte are digits that decode to it, and the four bytes make up
the word. -/
theorem encodeU32MirrorsDecode : Obligations.EncodeU32MirrorsDecode := by
  intro v s h
  obtain ⟨t0, e0, r0, h0⟩ := exec_hexEnc_of_running h (v.extractLsb' 24 8)
  obtain ⟨t1, e1, r1, h1⟩ := exec_hexEnc_of_running r0 (v.extractLsb' 16 8)
  obtain ⟨t2, e2, r2, h2⟩ := exec_hexEnc_of_running r1 (v.extractLsb' 8 8)
  obtain ⟨t3, e3, r3, h3⟩ := exec_hexEnc_of_running r2 (v.extractLsb' 0 8)
  have hrun := decodeU32IsBigEndian t3 _ _ _ _ _ _ _ _ _ _ _ _ r3
    (decodeByte_enc (v.extractLsb' 24 8)) (decodeByte_enc (v.extractLsb' 16 8))
    (decodeByte_enc (v.extractLsb' 8 8)) (decodeByte_enc (v.extractLsb' 0 8))
  have hv : v.extractLsb' 24 8 ++ v.extractLsb' 16 8 ++ v.extractLsb' 8 8 ++ v.extractLsb' 0 8 = v :=
    append_fields v
  rw [hv] at hrun
  refine ⟨t0, t1, t2, t3, t3.setBlock ((t3.block.setHex v 8).setRes v), e0, e1, e2, e3, ?_⟩
  simp only [List.flatMap_cons, List.flatMap_nil, h0, h1, h2, h3]
  refine ⟨?_, hrun, rfl⟩
  simp [hexChars, enc_isLowercaseDigit]

end Sys2Proof.Machine
end

section
/-! PROOFS. Which words are legal (spec/30_encoding.md R74 to R76): the decoder, the opcode table and the
fields of R73 agree on it. -/

namespace Sys2Proof

/-! ### Fields -/

/-- Two words are equal when their four fields are. -/
theorem word_eq_iff_fields {v w : Word} :
    v = w ↔ opField v = opField w ∧ rsvField v = rsvField w ∧ aField v = aField w ∧
      bField v = bField w := by
  refine ⟨by rintro rfl; exact ⟨rfl, rfl, rfl, rfl⟩, fun ⟨hop, hrsv, ha, hb⟩ => ?_⟩
  rw [← append_fields v, hop, hrsv, ha, hb, append_fields]

/-- A row matches a word field by field. -/
theorem OpcodeRow.accepts_iff (r : OpcodeRow) (w : Word) :
    r.accepts w = true ↔
      opField w &&& opField r.mask = opField r.matchWord ∧
      rsvField w &&& rsvField r.mask = rsvField r.matchWord ∧
      aField w &&& aField r.mask = aField r.matchWord ∧
      bField w &&& bField r.mask = bField r.matchWord := by
  rw [OpcodeRow.accepts, beq_iff_eq, word_eq_iff_fields]
  simp only [opField, rsvField, aField, bField, BitVec.extractLsb'_and]

/-! ### The fields of a legal word -/

/-- The sixteen values of OP (R73). -/
def opcodes : List Byte :=
  [0x00#8, 0x01#8, 0x02#8, 0x10#8, 0x11#8, 0x12#8, 0x13#8, 0x20#8, 0x21#8, 0x22#8, 0x23#8, 0x24#8,
    0x30#8, 0x31#8, 0x32#8, 0x33#8]

/-- The values of OP whose command has an operand in B (R73). -/
def opcodesWithB : List Byte := [0x11#8, 0x20#8, 0x21#8, 0x23#8, 0x31#8]

/-- What R73 asks of the fields of a legal word: only HEX_DEC, 0x20, has an operand in A. -/
def LegalFields (w : Word) : Prop :=
  opField w ∈ opcodes ∧ rsvField w = 0#8 ∧ (opField w = 0x20#8 ∨ aField w = 0#8) ∧
    (opField w ∈ opcodesWithB ∨ bField w = 0#8)

theorem opField_encode (i : Instr) : opField (encode i) = i.opcode :=
  (Laws.fields_of_word _ _ _ _).1

theorem opcode_mem (i : Instr) : i.opcode ∈ opcodes := by
  cases i <;> simp [Instr.opcode, opcodes]

theorem legalFields_encode (i : Instr) : LegalFields (encode i) := by
  obtain ⟨hop, hrsv, ha, hb⟩ := Laws.fields_of_word i.opcode 0#8 i.operandA i.operandB
  unfold LegalFields encode
  rw [hop, ha, hb]
  refine ⟨opcode_mem i, hrsv, ?_, ?_⟩
  · cases i <;> simp [Instr.opcode, Instr.operandA]
  · cases i <;> simp [Instr.opcode, Instr.operandB, opcodesWithB]

theorem exists_command_of_legalFields {w : Word} (h : LegalFields w) :
    ∃ i, decode w = .command i := by
  obtain ⟨hop, hrsv, ha, hb⟩ := h
  rw [decode, if_pos hrsv]
  generalize opField w = op at *
  simp only [opcodes, List.mem_cons, List.not_mem_nil, or_false] at hop
  rcases hop with rfl | rfl | rfl | rfl | rfl | rfl | rfl | rfl | rfl | rfl | rfl | rfl | rfl | rfl |
    rfl | rfl <;>
  simp_all [opcodesWithB, decodeFields, decodeNone, decodeB]

/-- A word is illegal exactly when its fields are not those of a legal word (R75). -/
theorem decode_eq_illegal_iff (w : Word) : decode w = .illegal ↔ ¬ LegalFields w := by
  cases hd : decode w with
  | command i => simpa [encode_of_decode hd] using legalFields_encode i
  | illegal =>
    refine iff_of_true rfl fun h => ?_
    obtain ⟨i, hi⟩ := exists_command_of_legalFields h
    simp [hd] at hi

/-! ### The opcode table -/

/-- The row of an opcode: OP and RSV compared in full, A and B but for operands (R73). -/
def rowOf (op : Byte) : OpcodeRow where
  matchWord := op ++ 0#8 ++ 0#8 ++ 0#8
  mask := BitVec.allOnes 8 ++ BitVec.allOnes 8 ++
    (if op = 0x20#8 then 0#8 else BitVec.allOnes 8) ++
    (if op ∈ opcodesWithB then 0#8 else BitVec.allOnes 8)

theorem opcodeTable_eq : opcodeTable = opcodes.map rowOf := by decide

theorem rowOf_matchWord :
    ∀ op ∈ opcodes, (rowOf op).matchWord = op.setWidth 32 <<< 24 := by
  decide

theorem mem_opcodeTable {r : OpcodeRow} : r ∈ opcodeTable ↔ ∃ op ∈ opcodes, rowOf op = r := by
  rw [opcodeTable_eq, List.mem_map]

/-- A row matches the legal words with its opcode. -/
theorem rowOf_accepts {op : Byte} (hop : op ∈ opcodes) (w : Word) :
    (rowOf op).accepts w = true ↔ opField w = op ∧ LegalFields w := by
  obtain ⟨mop, mrsv, ma, mb⟩ := Laws.fields_of_word op 0#8 0#8 0#8
  obtain ⟨kop, krsv, ka, kb⟩ := Laws.fields_of_word (BitVec.allOnes 8) (BitVec.allOnes 8)
    (if op = 0x20#8 then 0#8 else BitVec.allOnes 8)
    (if op ∈ opcodesWithB then 0#8 else BitVec.allOnes 8)
  rw [OpcodeRow.accepts_iff, rowOf, mop, mrsv, ma, mb, kop, krsv, ka, kb, BitVec.and_allOnes,
    BitVec.and_allOnes]
  constructor
  · rintro ⟨rfl, hrsv, ha, hb⟩
    refine ⟨rfl, hop, hrsv, ?_, ?_⟩
    · by_cases h : opField w = 0x20#8
      · exact .inl h
      · rw [if_neg h, BitVec.and_allOnes] at ha
        exact .inr ha
    · by_cases h : opField w ∈ opcodesWithB
      · exact .inl h
      · rw [if_neg h, BitVec.and_allOnes] at hb
        exact .inr hb
  · rintro ⟨rfl, -, hrsv, ha, hb⟩
    refine ⟨rfl, hrsv, ?_, ?_⟩
    · obtain h | h := ha <;> simp [h]
    · obtain h | h := hb <;> simp [h]

theorem rowOf_opcode_mem (i : Instr) : rowOf i.opcode ∈ opcodeTable :=
  mem_opcodeTable.mpr ⟨_, opcode_mem i, rfl⟩

theorem rowOf_opcode_accepts (i : Instr) : (rowOf i.opcode).accepts (encode i) = true :=
  (rowOf_accepts (opcode_mem i) _).mpr ⟨opField_encode i, legalFields_encode i⟩

theorem legal_encode (i : Instr) : legal (encode i) = true :=
  List.any_eq_true.mpr ⟨_, rowOf_opcode_mem i, rowOf_opcode_accepts i⟩

/-! ### The statements about the decoder -/

/-- Settles O1: each field of the word is the command's own, and OP picks the command's row. -/
theorem decodeOfEncodedCommand : Obligations.DecodeOfEncodedCommand := decode_encode

/-- Settles O2: the word is put together from its fields, which the decoder has all compared or taken as
operands. -/
theorem decodedWordIsItsEncoding : Obligations.DecodedWordIsItsEncoding := fun _ _ => encode_of_decode

/-- Settles O3: a command's row matches its word, and the OP of a word leaves room for one row. -/
theorem decodeAgreesWithOpcodeTable : Obligations.DecodeAgreesWithOpcodeTable := by
  intro w
  cases hd : decode w with
  | command i =>
    obtain rfl := encode_of_decode hd
    refine .inl ⟨i, rowOf i.opcode, rfl, rowOf_opcode_mem i, rowOf_opcode_accepts i,
      fun r hr hacc => ?_, rowOf_matchWord _ (opcode_mem i)⟩
    obtain ⟨op, hop, rfl⟩ := mem_opcodeTable.mp hr
    rw [← ((rowOf_accepts hop _).mp hacc).1, opField_encode]
  | illegal =>
    have hno : ∀ r ∈ opcodeTable, r.accepts w = false := by
      intro r hr
      obtain ⟨op, hop, rfl⟩ := mem_opcodeTable.mp hr
      exact Bool.eq_false_iff.mpr fun h =>
        (decode_eq_illegal_iff w).mp hd ((rowOf_accepts hop w).mp h).2
    exact .inr ⟨rfl, by simpa [legal] using hno, hno⟩

/-- Settles O5: each word is the encoding of its command. -/
theorem specWordsDecode : Obligations.SpecWordsDecode :=
  ⟨decode_encode (.crcByte 0xDE#8), decode_encode (.hexDec 0x44#8 0x45#8),
    decode_encode (.scanByte 0x6D#8), decode_encode .status, decode_encode .sreset,
    decode_encode (.hexEnc 0xDE#8), decode_encode (.hexPush 0x46#8), decode_encode .scanPos⟩

end Sys2Proof
end

section
/-! PROOFS. What a word does (spec/40_block_control.md R100): illegal words, the words that act in the
fault state, and that every step is defined. -/

namespace Sys2Proof.Machine

theorem illegalCommand_of_running {s : State} (h : s.Running) (w : Word) :
    illegalCommand w s = .next (s.setBlock (s.block.raise .illegalCommand 0#1 (opField w))) :=
  runCommand_of_running h

theorem illegalCommand_of_faulted {s : State} (h : s.Faulted) (w : Word) :
    illegalCommand w s = .next s :=
  runCommand_of_faulted h

/-- Settles O4: an illegal word breaks one of the clauses of `LegalFields`, and raises, but for the fault
state. -/
theorem illegalWordsRaise : Obligations.IllegalWordsRaise := by
  intro w
  refine ⟨?_, fun hd s => ?_⟩
  · rw [decode_eq_illegal_iff, LegalFields, not_and_or, not_and_or, not_and_or, not_or, not_or]
    rfl
  · rw [execWord_of_illegal hd]
    exact ⟨fun h => illegalCommand_of_running h w, fun h => illegalCommand_of_faulted h w⟩

theorem step_of_command {s : State} {w : Word} {rest : List PortInput}
    (h : s.port = .command w :: rest) : step s = execWord w (s.setPort rest) := by
  rw [step, nextInput_of_cons h]

/-- Settles O6: the step takes the word from the port and runs the command it decodes to. -/
theorem stepRunsPresentedCommand : Obligations.StepRunsPresentedCommand := by
  intro s w i rest hport hd
  rw [step_of_command hport, execWord_of_command hd]
  rfl

/-- From a state that meets the invariant every step has a next state. -/
theorem exists_step_of_invariant {s : State} (h : s.block.Invariant) : ∃ t, step s = .next t := by
  have hn : (nextInput s).2.block.Invariant := by rwa [nextInput_snd]
  obtain ⟨-, e⟩ | ⟨-, e⟩ | ⟨w, -, e⟩ := step_cases s <;> rw [e]
  · exact ⟨_, applyToBlock_of_invariant hn⟩
  · exact ⟨_, applyToBlock_of_invariant hn⟩
  · exact ⟨_, execWord_of_invariant hn w⟩

/-- Settles O11: steps, words and commands all go through `applyToBlock`, which the invariant makes
answer. -/
theorem everyStepIsDefined : Obligations.EveryStepIsDefined := fun s =>
  ⟨rfl, rfl, fun h => ⟨exists_step_of_invariant h, fun w => ⟨_, execWord_of_invariant h w⟩,
    fun i => ⟨_, (exec_eq_applyToBlock i s).trans (applyToBlock_of_invariant h)⟩⟩⟩

/-- SRESET acts in every state that meets the invariant (R103). -/
theorem exec_sreset_of_invariant {s : State} (h : s.block.Invariant) :
    exec .sreset s = .next (s.setBlock Block.reset) :=
  exec_of_acts h (by simp)

/-- In the fault state every word but those of STATUS and SRESET leaves the state as it is. -/
theorem execWord_of_faulted {s : State} (h : s.Faulted) {w : Word} (hs : w ≠ encode .status)
    (hr : w ≠ encode .sreset) : execWord w s = .next s := by
  cases hd : decode w with
  | command i =>
    have hw := encode_of_decode hd
    rw [execWord_of_command hd]
    exact exec_of_faulted h (by rintro rfl; exact hs hw.symm) (by rintro rfl; exact hr hw.symm)
  | illegal => rw [execWord_of_illegal hd, illegalCommand_of_faulted h]

/-- Settles O12: the two words are the encodings of STATUS and SRESET, which act in every state that
meets the invariant. -/
theorem faultStateIgnoresOtherWords : Obligations.FaultStateIgnoresOtherWords := fun s =>
  ⟨s.block.inFault_iff, fun h =>
    ⟨(execWord_encode .status s).trans (exec_status_of_invariant h.1),
      (execWord_encode .sreset s).trans (exec_sreset_of_invariant h.1),
      fun _ hs hr => execWord_of_faulted h hs hr⟩⟩

end Sys2Proof.Machine
end

section
/-! PROOFS. The assembler: command lines (spec/30_encoding.md R78) and the expansions of the
pseudo-instructions (R79). -/

namespace Sys2Proof.Machine

/-! ### Results and errors -/

theorem assemble_of_ok {l : AsmLine} {is : List Instr} (h : lineCommands l = .ok is) :
    assemble l = .ok (words is) := by
  rw [assemble, h]; rfl

theorem assemble_of_error {l : AsmLine} (h : ∃ e, lineCommands l = .error e) :
    ∃ e, assemble l = .error e := by
  obtain ⟨e, he⟩ := h
  exact ⟨e, by rw [assemble, he]; rfl⟩

/-- A line that assembles to words is no error, and the other way round. -/
theorem not_error_of_assemble_ok {l : AsmLine} {ws : List Word} (h : assemble l = .ok ws) :
    ¬ ∃ e, assemble l = .error e := by
  rintro ⟨e, he⟩
  rw [h] at he
  cases he

/-! ### Command lines -/

/-- Whether a list is `n` operands, each one byte (R78). -/
def areBytes (n : Nat) (os : List AsmOperand) : Bool :=
  n == os.length && os.all AsmOperand.isByte

/-- A command with `n` operands: one command for `n` bytes, an error for every other list (R78). -/
structure TakesBytes (n : Nat) (f : List AsmOperand → Except AsmError (List Instr)) : Prop where
  ok : ∀ os, areBytes n os = true → ∃ i, f os = .ok [i]
  error : ∀ os, areBytes n os = false → ∃ e, f os = .error e

theorem asmOne_of_byte {o : AsmOperand} {b : Byte} (h : o.byte? = some b) (mk : Byte → Instr) :
    asmOne mk [o] = .ok [mk b] := by
  rw [asmOne, asmByte_of_some h]; rfl

theorem asmTwo_of_bytes {o₁ o₂ : AsmOperand} {a b : Byte} (h₁ : o₁.byte? = some a)
    (h₂ : o₂.byte? = some b) (mk : Byte → Byte → Instr) : asmTwo mk [o₁, o₂] = .ok [mk a b] := by
  rw [asmTwo, asmByte_of_some h₁, asmByte_of_some h₂]; rfl

theorem takesBytes_asmNone (i : Instr) : TakesBytes 0 (asmNone i) where
  ok
    | [], _ => ⟨i, rfl⟩
  error
    | _ :: _, _ => ⟨_, rfl⟩

theorem takesBytes_asmOne (mk : Byte → Instr) : TakesBytes 1 (asmOne mk) where
  ok
    | [o], h => by
      obtain ⟨b, hb⟩ := Option.isSome_iff_exists.mp (show o.isByte = true by
        simpa [areBytes] using h)
      exact ⟨_, asmOne_of_byte hb mk⟩
  error
    | [], _ => ⟨_, rfl⟩
    | [o], h => by
      obtain ⟨e, he⟩ := asmByte_of_none (o := o) (by simpa [areBytes, AsmOperand.isByte] using h)
      exact ⟨e, by rw [asmOne, he]; rfl⟩
    | _ :: _ :: _, _ => ⟨_, rfl⟩

theorem takesBytes_asmTwo (mk : Byte → Byte → Instr) : TakesBytes 2 (asmTwo mk) where
  ok
    | [o₁, o₂], h => by
      obtain ⟨h₁, h₂⟩ : o₁.isByte = true ∧ o₂.isByte = true := by simpa [areBytes] using h
      obtain ⟨a, ha⟩ := Option.isSome_iff_exists.mp h₁
      obtain ⟨b, hb⟩ := Option.isSome_iff_exists.mp h₂
      exact ⟨_, asmTwo_of_bytes ha hb mk⟩
  error
    | [], _ | [_], _ => ⟨_, rfl⟩
    | [o₁, o₂], h => by
      cases h₁ : o₁.byte? with
      | none =>
        obtain ⟨e, he⟩ := asmByte_of_none h₁
        exact ⟨e, by rw [asmTwo, he]; rfl⟩
      | some a =>
        obtain ⟨e, he⟩ := asmByte_of_none (o := o₂)
          (by simpa [areBytes, AsmOperand.isByte, h₁] using h)
        exact ⟨e, by rw [asmTwo, asmByte_of_some h₁, he]; rfl⟩
    | _ :: _ :: _ :: _, _ => ⟨_, rfl⟩

/-- The commands with no operand, by mnemonic (R73). -/
def bareCommands : List (String × Instr) :=
  [("NOP", .nop), ("SRESET", .sreset), ("STATUS", .status), ("CRC_INIT", .crcInit),
    ("CRC_READ", .crcRead), ("CRC_RAW", .crcRaw), ("HEX_CLR", .hexClr), ("HEX_ACC", .hexAcc),
    ("SCAN_CLR", .scanClr), ("SCAN_SKIP", .scanSkip), ("SCAN_POS", .scanPos)]

/-- The commands with one operand, in B, by mnemonic (R73). -/
def byteCommands : List (String × (Byte → Instr)) :=
  [("CRC_BYTE", .crcByte), ("HEX_ENC", .hexEnc), ("HEX_PUSH", .hexPush), ("SCAN_BYTE", .scanByte)]

theorem lineCommands_of_bare {p : String × Instr} (hp : p ∈ bareCommands) (os : List AsmOperand) :
    lineCommands ⟨p.1, os⟩ = asmNone p.2 os := by
  simp only [bareCommands, List.mem_cons, List.not_mem_nil, or_false] at hp
  rcases hp with rfl | rfl | rfl | rfl | rfl | rfl | rfl | rfl | rfl | rfl | rfl <;> rfl

theorem lineCommands_of_byte {p : String × (Byte → Instr)} (hp : p ∈ byteCommands)
    (os : List AsmOperand) : lineCommands ⟨p.1, os⟩ = asmOne p.2 os := by
  simp only [byteCommands, List.mem_cons, List.not_mem_nil, or_false] at hp
  rcases hp with rfl | rfl | rfl | rfl <;> rfl

theorem lineCommands_hexDec (os : List AsmOperand) :
    lineCommands ⟨"HEX_DEC", os⟩ = asmTwo .hexDec os := rfl

/-- A mnemonic takes no operand, one, or, as HEX_DEC alone does, two (R78). -/
theorem operandCount_eq_some {m : String} {n : Nat} (h : operandCount m = some n) :
    (n = 0 ∧ ∃ i, (m, i) ∈ bareCommands) ∨ (n = 1 ∧ ∃ mk, (m, mk) ∈ byteCommands) ∨
      (n = 2 ∧ m = "HEX_DEC") := by
  unfold operandCount at h
  split at h
  · next hm =>
    cases h
    have hm : m ∈ byteCommands.map Prod.fst := hm
    obtain ⟨p, hp, rfl⟩ := List.mem_map.mp hm
    exact .inr (.inl ⟨rfl, _, hp⟩)
  · split at h
    · next hm => cases h; exact .inr (.inr ⟨rfl, hm⟩)
    · split at h
      · next hm =>
        cases h
        have hm : m ∈ bareCommands.map Prod.fst := hm
        obtain ⟨p, hp, rfl⟩ := List.mem_map.mp hm
        exact .inl ⟨rfl, _, hp⟩
      · cases h

theorem takesBytes_lineCommands {m : String} {n : Nat} (h : operandCount m = some n) :
    TakesBytes n fun os => lineCommands ⟨m, os⟩ := by
  obtain ⟨rfl, i, hi⟩ | ⟨rfl, mk, hmk⟩ | ⟨rfl, rfl⟩ := operandCount_eq_some h
  · simpa only [lineCommands_of_bare hi] using takesBytes_asmNone i
  · simpa only [lineCommands_of_byte hmk] using takesBytes_asmOne mk
  · exact takesBytes_asmTwo .hexDec

theorem wellFormed_eq_areBytes {l : AsmLine} {n : Nat} (h : operandCount l.mnemonic = some n) :
    l.wellFormed = areBytes n l.operands := by
  rw [AsmLine.wellFormed, h]; rfl

theorem assemble_of_wellFormed {l : AsmLine} (h : operandCount l.mnemonic ≠ none)
    (hw : l.wellFormed = true) : ∃ i, assemble l = .ok [encode i] := by
  obtain ⟨n, hn⟩ := Option.ne_none_iff_exists'.mp h
  obtain ⟨i, hi⟩ := (takesBytes_lineCommands hn).ok _ (wellFormed_eq_areBytes hn ▸ hw)
  exact ⟨i, assemble_of_ok hi⟩

theorem assemble_of_not_wellFormed {l : AsmLine} (h : operandCount l.mnemonic ≠ none)
    (hw : l.wellFormed = false) : ∃ e, assemble l = .error e := by
  obtain ⟨n, hn⟩ := Option.ne_none_iff_exists'.mp h
  exact assemble_of_error ((takesBytes_lineCommands hn).error _ (wellFormed_eq_areBytes hn ▸ hw))

theorem assemble_bare {p : String × Instr} (hp : p ∈ bareCommands) :
    assemble ⟨p.1, []⟩ = .ok [encode p.2] :=
  assemble_of_ok (lineCommands_of_bare hp [])

theorem assemble_byte {o : AsmOperand} {b : Byte} (h : o.byte? = some b)
    {p : String × (Byte → Instr)} (hp : p ∈ byteCommands) :
    assemble ⟨p.1, [o]⟩ = .ok [encode (p.2 b)] :=
  assemble_of_ok ((lineCommands_of_byte hp [o]).trans (asmOne_of_byte h p.2))

/-- The mnemonics of the pseudo-instructions (R79). -/
def pseudoMnemonics : List String :=
  ["CRC_BYTES", "CRC_ZEROS", "CRC_COMPUTE", "HEX_U32", "SCAN_STR", "SCAN_SKIPN"]

theorem lineCommands_of_unknown {l : AsmLine} (h : operandCount l.mnemonic = none)
    (hp : l.mnemonic ∉ pseudoMnemonics) : lineCommands l = .error .unknownMnemonic := by
  unfold lineCommands
  split
  case h_23 => rfl
  all_goals next hm => simp [hm, operandCount, pseudoMnemonics] at h hp

theorem encode_of_bare :
    ∀ p ∈ bareCommands, encode p.2 = p.2.opcode ++ 0x00#8 ++ 0x00#8 ++ 0x00#8 := by
  decide

theorem encode_of_byte (b : Byte) {p : String × (Byte → Instr)} (hp : p ∈ byteCommands) :
    encode (p.2 b) = (p.2 0x00#8).opcode ++ 0x00#8 ++ 0x00#8 ++ b := by
  simp only [byteCommands, List.mem_cons, List.not_mem_nil, or_false] at hp
  rcases hp with rfl | rfl | rfl | rfl <;> rfl

/-- Settles O58: the mnemonic says how many bytes the line takes; with them it is its command's word, and
with any other operands an error. -/
theorem wellFormedLinesAssemble : Obligations.WellFormedLinesAssemble := by
  refine ⟨fun l h => ?_, fun p hp => ?_, fun o b hb p hp => ?_, fun o₁ o₂ a b ha hb => ?_,
    fun l h hp => ?_⟩
  · cases hw : l.wellFormed with
    | true =>
      obtain ⟨i, hi⟩ := assemble_of_wellFormed h hw
      exact ⟨iff_of_true rfl ⟨_, hi, legal_encode i⟩,
        iff_of_false (by simp) (not_error_of_assemble_ok hi)⟩
    | false =>
      have he := assemble_of_not_wellFormed h hw
      exact ⟨iff_of_false (by simp) fun ⟨_, hok, _⟩ => not_error_of_assemble_ok hok he,
        iff_of_true rfl he⟩
  · have hp : p ∈ bareCommands.map fun q => (q.1, q.2.opcode) := hp
    obtain ⟨q, hq, rfl⟩ := List.mem_map.mp hp
    rw [assemble_bare hq, encode_of_bare q hq]
  · have hp : p ∈ byteCommands.map fun q => (q.1, (q.2 0x00#8).opcode) := hp
    obtain ⟨q, hq, rfl⟩ := List.mem_map.mp hp
    rw [assemble_byte hb hq, encode_of_byte b hq]
  · exact assemble_of_ok ((lineCommands_hexDec _).trans (asmTwo_of_bytes ha hb .hexDec))
  · exact assemble_of_error ⟨_, lineCommands_of_unknown h hp⟩

end Sys2Proof.Machine
end

section
/-! PROOFS. The expansions of the pseudo-instructions (spec/30_encoding.md R79) and their errors. -/

namespace Sys2Proof.Machine

/-! ### Lists read element by element -/

theorem length_of_mapM_eq_some {α β : Type} {f : α → Option β} {l : List α} {r : List β}
    (h : l.mapM f = some r) : r.length = l.length := by
  induction l generalizing r with
  | nil => cases h; rfl
  | cons a l ih =>
    obtain ⟨b, -, r, hr, rfl⟩ : ∃ b, f a = some b ∧ ∃ r', l.mapM f = some r' ∧ b :: r' = r := by
      simpa [List.mapM_cons, Option.bind_eq_some_iff] using h
    simp [ih hr]

theorem exists_none_of_mapM_eq_none {α β : Type} {f : α → Option β} {l : List α}
    (h : l.mapM f = none) : ∃ a ∈ l, f a = none := by
  induction l with
  | nil => cases h
  | cons a l ih =>
    cases ha : f a with
    | none => exact ⟨a, List.mem_cons_self, ha⟩
    | some b =>
      obtain ⟨x, hx, hn⟩ := ih (by
        simpa [List.mapM_cons, ha, ← Option.eq_none_iff_forall_ne_some] using h)
      exact ⟨x, List.mem_cons_of_mem a hx, hn⟩

/-! ### Operands -/

/-- A list of bytes becomes one command per byte, in order. -/
theorem asmMany_ok {os : List AsmOperand} {bs : List Byte} (h : os.mapM AsmOperand.byte? = some bs)
    (mk : Byte → Instr) : asmMany mk os = .ok (bs.map mk) := by
  rw [asmMany, mapM_ok_of_some (fun _ _ => asmByte_of_some) os bs h]; rfl

theorem asmMany_error {os : List AsmOperand} (h : ∃ o ∈ os, o.byte? = none) (mk : Byte → Instr) :
    ∃ e, asmMany mk os = .error e := by
  obtain ⟨e, he⟩ := mapM_error_of_none (fun _ => asmByte_of_none) os h
  exact ⟨e, by rw [asmMany, he]; rfl⟩

/-- What stands in place of a count and is no number is an error (log entry 11). -/
theorem asmCopies_error {os : List AsmOperand} (h : ∀ n, os ≠ [.number n]) (i : Instr) :
    ∃ e, asmCopies i os = .error e := by
  unfold asmCopies
  split
  · next n => exact absurd rfl (h n)
  · exact ⟨_, rfl⟩
  · exact ⟨_, rfl⟩

/-- A string of ASCII characters becomes one command per character, in order. -/
theorem asmString_ok {cs : List Char} {bs : List Byte} (h : cs.mapM charCode? = some bs)
    (mk : Byte → Instr) : asmString mk [.string cs] = .ok (bs.map mk) := by
  rw [asmString, mapM_ok_of_some (fun _ _ => charByte_of_some) cs bs h]; rfl

/-- What is no string of ASCII characters is an error. -/
theorem asmString_error {os : List AsmOperand}
    (h : ∀ cs bs, cs.mapM charCode? = some bs → os ≠ [.string cs]) (mk : Byte → Instr) :
    ∃ e, asmString mk os = .error e := by
  unfold asmString
  split
  · next cs =>
    cases hcs : cs.mapM charCode? with
    | none =>
      obtain ⟨e, he⟩ := mapM_error_of_none (fun _ => charByte_of_none) cs
        (exists_none_of_mapM_eq_none hcs)
      exact ⟨e, by rw [he]; rfl⟩
    | some bs => exact absurd rfl (h cs bs hcs)
  · exact ⟨_, rfl⟩
  · exact ⟨_, rfl⟩

/-! ### HEX_U32 -/

theorem asmHexU32_ok {cs : List Char} {bs : List Byte} (h : cs.mapM charCode? = some bs)
    (hlen : cs.length = 8) :
    asmHexU32 [.string cs] = .ok (.hexClr :: bs.map Instr.hexPush ++ [.hexAcc]) := by
  rw [asmHexU32, asmString_ok h]
  exact if_pos ((List.length_map _).trans ((length_of_mapM_eq_some h).trans hlen))

theorem asmHexU32_error {os : List AsmOperand}
    (h : ∀ cs bs, cs.mapM charCode? = some bs → os ≠ [.string cs]) :
    ∃ e, asmHexU32 os = .error e := by
  obtain ⟨e, he⟩ := asmString_error h .hexPush
  exact ⟨e, by rw [asmHexU32, he]; rfl⟩

/-- HEX_U32 takes exactly eight characters (R79). -/
theorem asmHexU32_error_of_length {cs : List Char} (hlen : cs.length ≠ 8) :
    ∃ e, asmHexU32 [.string cs] = .error e := by
  cases h : cs.mapM charCode? with
  | none => exact asmHexU32_error (by rintro _ bs hbs ⟨rfl⟩; simp [h] at hbs)
  | some bs =>
    rw [asmHexU32, asmString_ok h]
    exact ⟨_, if_neg (by rwa [List.length_map, length_of_mapM_eq_some h])⟩

/-! ### The statement -/

theorem lineCommands_crcCompute (os : List AsmOperand) :
    lineCommands ⟨"CRC_COMPUTE", os⟩ =
      (asmMany .crcByte os).map fun bytes => .crcInit :: bytes ++ [.crcRead] := rfl

/-- Settles O59: each expansion reads its operands by `asmMany`, `asmCopies` or `asmString`, which are an
error on every other list. -/
theorem pseudoInstructionsExpand : Obligations.PseudoInstructionsExpand := by
  refine ⟨fun os bs h => ⟨?_, ?_⟩, fun os h => ⟨?_, ?_⟩, fun n => ⟨?_, ?_⟩, fun os h => ⟨?_, ?_⟩,
    fun cs bs h => ⟨?_, fun hlen => ?_⟩, fun os h => ⟨?_, ?_⟩, fun cs hlen => ?_⟩
  · exact assemble_of_ok (asmMany_ok h .crcByte)
  · exact assemble_of_ok (by rw [lineCommands_crcCompute, asmMany_ok h]; rfl)
  · exact assemble_of_error (asmMany_error h .crcByte)
  · obtain ⟨e, he⟩ := asmMany_error h .crcByte
    exact assemble_of_error ⟨e, by rw [lineCommands_crcCompute, he]; rfl⟩
  · exact assemble_of_ok rfl
  · exact assemble_of_ok rfl
  · exact assemble_of_error (asmCopies_error h (.crcByte 0x00#8))
  · exact assemble_of_error (asmCopies_error h .scanSkip)
  · exact assemble_of_ok (asmString_ok h .scanByte)
  · exact assemble_of_ok (asmHexU32_ok h hlen)
  · exact assemble_of_error (asmString_error h .scanByte)
  · exact assemble_of_error (asmHexU32_error h)
  · exact assemble_of_error (asmHexU32_error_of_length hlen)

end Sys2Proof.Machine
end

section
/-! PROOFS. The error context (spec/40_block_control.md R102, spec/60_exceptions.md R210, R213, R214):
which facts about the block every step keeps, and that the error context is one. -/

namespace Sys2Proof.Machine

/-! ### Facts about the block that every step keeps -/

/-- What holds of a block, of every command's effect on it and of it with IllegalCommand raised, holds
of every word's effect on it. -/
theorem wordEffect_keeps {P : Block → Prop} (c : Config) (w : Word) {b : Block} (h : P b)
    (hcommand : ∀ i, P (commandEffect c i b))
    (hillegal : ∀ op, P (b.raise .illegalCommand 0#1 op)) : P (wordEffect c w b) := by
  cases hd : decode w with
  | command i =>
    rw [wordEffect_of_command hd]
    dsimp only
    split
    · exact h
    · exact hcommand i
  | illegal =>
    rw [wordEffect_of_illegal hd]
    dsimp only
    split
    · exact h
    · exact hillegal (opField w)

/-- A fact that holds at reset, and that every command's effect and the raise of IllegalCommand keep, is
kept by every step. -/
theorem step_keeps {P : Block → Prop} (hreset : P Block.reset)
    (hcommand : ∀ c i b, P b → P (commandEffect c i b))
    (hillegal : ∀ op b, P b → P (b.raise .illegalCommand 0#1 op)) {s t : State}
    (h : step s = .next t) (hs : P s.block) : P t.block := by
  obtain ⟨-, b, rfl, ⟨-, rfl⟩ | ⟨-, rfl⟩ | ⟨w, -, rfl⟩⟩ := step_eq_next h
  · exact hreset
  · exact hs
  · exact wordEffect_keeps s.config w hs (fun i => hcommand _ i _ hs) (fun op => hillegal op _ hs)

/-! ### The error context -/

theorem Block.reset_errorContext : Block.reset.ErrorContext := by decide

/-- IllegalCommand is raised with index 0 (R213). -/
theorem Block.raise_illegalCommand_errorContext (b : Block) (op : Byte) :
    (b.raise .illegalCommand 0#1 op).ErrorContext := by
  simp [Block.ErrorContext, ErrorKind.code]

/-- InvalidHexDigit is raised with a byte that is no hex digit (R214). -/
theorem Block.raise_invalidHexDigit_errorContext (b : Block) (idx : BitVec 1) {d : Byte}
    (hd : nib d = none) : (b.raise .invalidHexDigit idx d).ErrorContext := by
  simp [Block.ErrorContext, ErrorKind.code, hd]

/-- SRESET clears the error fields, HEX_DEC and HEX_PUSH raise InvalidHexDigit or leave them, and every
other command leaves them. -/
theorem commandEffect_errorContext (c : Config) (i : Instr) {b : Block} (h : b.ErrorContext) :
    (commandEffect c i b).ErrorContext := by
  cases i with
  | sreset => exact Block.reset_errorContext
  | hexDec c1 c2 =>
    simp only [commandEffect]
    obtain ⟨hn, e⟩ | ⟨-, hn, e⟩ | ⟨n, l, -, -, e⟩ := b.hexDec_cases c1 c2 <;> rw [e]
    · exact b.raise_invalidHexDigit_errorContext 0#1 hn
    · exact b.raise_invalidHexDigit_errorContext 1#1 hn
    · exact h
  | hexPush d =>
    simp only [commandEffect]
    obtain ⟨hn, e⟩ | ⟨n, -, e⟩ := b.hexPush_cases d <;> rw [e]
    · exact b.raise_invalidHexDigit_errorContext 0#1 hn
    · exact h
  | _ => exact h

/-- Settles O17: the reset state has the error context, and every effect keeps it. -/
theorem stepKeepsErrorContext : Obligations.StepKeepsErrorContext := fun _ _ hs h =>
  step_keeps Block.reset_errorContext (fun c i _ => commandEffect_errorContext c i)
    (fun op b _ => b.raise_illegalCommand_errorContext op) h hs

end Sys2Proof.Machine
end

section
/-! PROOFS. Block control (spec/40_block_control.md R100, R101, R103): the words of NOP and SRESET, and the
cases of the command cycle. -/

namespace Sys2Proof.Machine

/-- R75, R76: a command has one word, its encoding. -/
theorem decode_eq_command_iff {w : Word} {i : Instr} : decode w = .command i ↔ w = encode i :=
  ⟨fun h => (encode_of_decode h).symm, fun h => h ▸ decode_encode i⟩

/-- NOP's effect is none, in the fault state or out of it (R101). -/
theorem exec_nop_of_invariant {s : State} (h : s.block.Invariant) : exec .nop s = .next s := by
  rw [exec_eq_applyToBlock, applyToBlock_of_invariant h]
  simp [commandEffect]

/-- Settles O26: the word is NOP's encoding, and NOP's effect is none. -/
theorem nopChangesNothing : Obligations.NopChangesNothing :=
  ⟨fun _ => decode_eq_command_iff, fun _ h => exec_nop_of_invariant h⟩

/-- Settles O27: the word is SRESET's encoding, and SRESET's effect is the reset state. -/
theorem sresetLoadsResetState : Obligations.SresetLoadsResetState :=
  ⟨fun _ => decode_eq_command_iff, fun _ h => exec_sreset_of_invariant h⟩

/-- Settles O10: SRESET and STATUS act in every state, in the fault state no other word does, and outside
it the decoder tells an illegal word, which raises, from a command, which runs. -/
theorem commandCycleCases : Obligations.CommandCycleCases := by
  intro s w h
  split
  case isTrue hreset =>
    rw [hreset]
    exact (execWord_encode .sreset s).trans (exec_sreset_of_invariant h)
  case isFalse hreset =>
    split
    case isTrue hfault =>
      split
      case isTrue hstatus =>
        rw [hstatus]
        exact (execWord_encode .status s).trans (exec_status_of_invariant h)
      case isFalse hstatus => exact execWord_of_faulted ⟨h, hfault⟩ hstatus hreset
    case isFalse hrunning =>
      cases hd : decode w with
      | illegal =>
        rw [execWord_of_illegal hd]
        exact illegalCommand_of_running ⟨h, not_not.mp hrunning⟩ w
      | command i => exact execWord_of_command hd s

end Sys2Proof.Machine
end

section
/-! PROOFS. The CRC update is linear over GF(2) (spec/41_crc32.md R121, R129), and so its table-driven form
is the bitwise one (R123). -/

namespace Sys2Proof.Machine

/-! ### The update is linear -/

theorem word_xor_xor_xor_comm (u v x y : Word) : (u ^^^ v) ^^^ (x ^^^ y) = (u ^^^ x) ^^^ (v ^^^ y) := by
  ac_rfl

/-- A word XORed with the polynomial when a bit is set is linear in the word and the bit together. -/
theorem ite_xor_linear (x y : Bool) (u v p : Word) :
    (if x ^^ y then (u ^^^ v) ^^^ p else u ^^^ v) =
      (if x then u ^^^ p else u) ^^^ (if y then v ^^^ p else v) := by
  cases x <;> cases y
  · rfl
  · exact BitVec.xor_assoc u v p
  · change (u ^^^ v) ^^^ p = (u ^^^ p) ^^^ v
    ac_rfl
  · change u ^^^ v = (u ^^^ p) ^^^ (v ^^^ p)
    rw [word_xor_xor_xor_comm, BitVec.xor_self, BitVec.xor_zero]

theorem crcBitReflected_linear :
    Function.Semiconj₂ crcBitReflected (· ^^^ ·) (· ^^^ ·) := fun r r' => by
  simp only [crcBitReflected, BitVec.getLsbD_xor, BitVec.ushiftRight_xor_distrib, ite_xor_linear]

theorem crcBitDirect_linear :
    Function.Semiconj₂ crcBitDirect (· ^^^ ·) (· ^^^ ·) := fun r r' => by
  simp only [crcBitDirect, BitVec.getLsbD_xor, BitVec.shiftLeft_xor_distrib, ite_xor_linear]

theorem zext32_xor (b b' : Byte) : zext32 (b ^^^ b') = zext32 b ^^^ zext32 b' := BitVec.setWidth_xor

/-- Settles O35: the byte enters the register by XOR, and each of the eight bit steps is linear. -/
theorem crcUpdateIsLinear : Obligations.CrcUpdateIsLinear := by
  intro reflect r r' b b'
  cases reflect with
  | true =>
    have hin : (r ^^^ r') ^^^ zext32 (b ^^^ b') = (r ^^^ zext32 b) ^^^ (r' ^^^ zext32 b') := by
      rw [zext32_xor, word_xor_xor_xor_comm]
    exact (congrArg _ hin).trans ((crcBitReflected_linear.iterate 8).eq _ _)
  | false =>
    have hin : (r ^^^ r') ^^^ (zext32 (b ^^^ b') <<< 24) =
        (r ^^^ (zext32 b <<< 24)) ^^^ (r' ^^^ (zext32 b' <<< 24)) := by
      rw [zext32_xor, BitVec.shiftLeft_xor_distrib, word_xor_xor_xor_comm]
    exact (congrArg _ hin).trans ((crcBitDirect_linear.iterate 8).eq _ _)

/-! ### The table-driven form, reflected -/

/-- Bit steps over a register whose low bits are zero only shift it: CRC_RPOLY is not XORed in. -/
theorem iterate_crcBitReflected_of_low_zero {n : Nat} {r : Word} (h : ∀ i < n, r.getLsbD i = false) :
    crcBitReflected^[n] r = r >>> n := by
  induction n generalizing r with
  | zero => simp
  | succ n ih =>
    have hbit : crcBitReflected r = r >>> 1 := by rw [crcBitReflected, h 0 n.succ_pos]; rfl
    have hlow : ∀ i < n, (r >>> 1).getLsbD i = false := fun i hi => by
      rw [BitVec.getLsbD_ushiftRight]
      exact h (1 + i) (by omega)
    rw [Function.iterate_succ_apply, hbit, ih hlow, ← BitVec.shiftRight_add, Nat.add_comm]

/-- The reflected update with a zero byte, over a register with a zero low byte, is a shift. -/
theorem crcUpdate_reflected_of_low_zero {r : Word} (h : r.setWidth 8 = 0#8) :
    crcUpdate true r 0#8 = r >>> 8 := by
  have hlow : ∀ i < 8, r.getLsbD i = false := fun i hi => by
    have hbit := congrArg (BitVec.getLsbD · i) h
    simpa [hi] using hbit
  exact (congrArg _ BitVec.xor_zero).trans (iterate_crcBitReflected_of_low_zero hlow)

theorem zext32_ushiftRight_eight (b : Byte) : zext32 b >>> 8 = 0#32 := by
  ext i hi
  simp [zext32, ← BitVec.getLsbD_eq_getElem]

/-- R123, reflected: with the byte XORed in, the register is its low byte, which the table answers for,
XORed with a rest that the bit steps only shift. -/
theorem crcUpdateByTable_reflected (r : Word) (b : Byte) :
    crcUpdateByTable true r b = crcUpdate true r b := by
  obtain ⟨i, hi⟩ : ∃ i, i = (r ^^^ zext32 b).setWidth 8 := ⟨_, rfl⟩
  obtain ⟨rest, hrest⟩ : ∃ rest, rest = (r ^^^ zext32 b) ^^^ zext32 i := ⟨_, rfl⟩
  have hlow : rest.setWidth 8 = 0#8 := by simp [hrest, hi, zext32]
  have hshift : rest >>> 8 = r >>> 8 := by
    simp [hrest, BitVec.ushiftRight_xor_distrib, zext32_ushiftRight_eight]
  have hin : r ^^^ zext32 b = rest ^^^ zext32 i := by simp [hrest, BitVec.xor_assoc]
  symm
  calc crcUpdate true r b
      = crcUpdate true rest i := congrArg crcBitReflected^[8] hin
    _ = crcUpdate true (rest ^^^ 0#32) (0#8 ^^^ i) := by rw [BitVec.xor_zero, BitVec.zero_xor]
    _ = crcUpdate true rest 0#8 ^^^ crcTable true i := crcUpdateIsLinear true rest 0#32 0#8 i
    _ = crcUpdateByTable true r b := by
        rw [crcUpdate_reflected_of_low_zero hlow, hshift, hi]; rfl

/-! ### The table-driven form, direct, seen in reversed bit order -/

theorem bitrev32_crcUpdate_direct (r : Word) (b : Byte) :
    bitrev32 (crcUpdate false r b) = crcUpdate true (bitrev32 r) b.reverse := by
  rw [crcDirectionsMirror, bitrev32_bitrev32, BitVec.reverse_reverse_eq]

/-- The direct form's table index is the reflected form's in reversed bit order. -/
theorem reverse_directIndex (r : Word) (b : Byte) :
    (((r >>> 24) ^^^ zext32 b).setWidth 8).reverse =
      (bitrev32 r ^^^ zext32 b.reverse).setWidth 8 := by
  ext i hi
  obtain ⟨hmirror, hword, hpos⟩ : 7 - i < 8 ∧ i < 32 ∧ 24 + (7 - i) = 31 - i := by omega
  simp [← BitVec.getLsbD_eq_getElem, BitVec.getLsbD_reverse, getLsbD_bitrev32, zext32,
    BitVec.getMsbD_eq_getLsbD, hi, hmirror, hword, hpos]

theorem bitrev32_crcUpdateByTable_direct (r : Word) (b : Byte) :
    bitrev32 (crcUpdateByTable false r b) = crcUpdateByTable true (bitrev32 r) b.reverse := by
  have hzero : bitrev32 0#32 = 0#32 := by decide +kernel
  change bitrev32 ((r <<< 8) ^^^ crcUpdate false 0#32 _) = _
  rw [bitrev32_xor, bitrev32_shiftLeft, bitrev32_crcUpdate_direct, hzero, reverse_directIndex]
  rfl

/-- Settles O33: the reflected forms agree by linearity, and bit reversal carries both direct forms to
them. -/
theorem crcTableFormAgrees : Obligations.CrcTableFormAgrees := by
  intro reflect r b
  cases reflect with
  | true => exact crcUpdateByTable_reflected r b
  | false =>
    have hrev : bitrev32 (crcUpdateByTable false r b) = bitrev32 (crcUpdate false r b) := by
      rw [bitrev32_crcUpdateByTable_direct, crcUpdateByTable_reflected, bitrev32_crcUpdate_direct]
    simpa using congrArg bitrev32 hrev

end Sys2Proof.Machine
end

section
/-! PROOFS. The CRC commands (spec/41_crc32.md R125 to R128) and the sequences that compute a checksum
(R124, R127, R130). -/

namespace Sys2Proof.Machine

/-! ### One command -/

/-- A CRC command: its effect outside the fault state, and none in it (R100). -/
theorem exec_of_crcUnit {i : Instr} (hu : unitOf i = .crc) (s : State) :
    (s.Running → exec i s = .next (s.setBlock (commandEffect s.config i s.block))) ∧
      (s.Faulted → exec i s = .next s) :=
  ⟨fun h => exec_of_running h i,
    fun h => exec_of_faulted h (by rintro rfl; cases hu) (by rintro rfl; cases hu)⟩

/-- Settles O29: CRC_INIT's effect is a write of the seed. -/
theorem crcInitLoadsSeed : Obligations.CrcInitLoadsSeed :=
  ⟨by decide, exec_of_crcUnit rfl⟩

/-- Settles O30: CRC_BYTE's effect is the bitwise update of the register. -/
theorem crcByteFoldsByte : Obligations.CrcByteFoldsByte := fun _ s =>
  ⟨rfl, exec_of_crcUnit rfl s⟩

/-- Settles O31: CRC_READ's effect is a write of the finalized register to `res`. -/
theorem crcReadFinalizes : Obligations.CrcReadFinalizes :=
  ⟨by decide, exec_of_crcUnit rfl⟩

/-- Settles O32: CRC_RAW's effect is a write of the register to `res`. -/
theorem crcRawReadsRegister : Obligations.CrcRawReadsRegister :=
  ⟨by decide, exec_of_crcUnit rfl⟩

/-! ### Sequences -/

/-- The block after the bytes and a CRC_READ: the register holds the fold, and `res` its finalization. -/
def Block.crcFold (c : Config) (bytes : List Byte) (b : Block) : Block :=
  let v := bytes.foldl (crcUpdate c.crcReflect) b.crcReg
  (b.setCrcReg v).setRes (crcFinal c v)

/-- A CRC_BYTE per byte and a CRC_READ, outside the fault state (R124, R126, R127). -/
theorem runWords_crcBytes_crcRead (bytes : List Byte) {s : State} (h : s.Running) :
    runWords (words (bytes.map Instr.crcByte ++ [.crcRead])) s =
      .next (s.setBlock (s.block.crcFold s.config bytes)) := by
  induction bytes generalizing s with
  | nil => exact runWords_words_cons h .crcRead []
  | cons d bytes ih =>
    have hrun := running_commandEffect h (i := .crcByte d) (by simp) (by simp)
    exact (runWords_words_cons h (.crcByte d) _).trans (ih hrun)

/-- CRC_INIT before them starts the fold from the seed. -/
theorem runWords_crcInit_crcBytes_crcRead (bytes : List Byte) {s : State} (h : s.Running) :
    runWords (words (.crcInit :: bytes.map Instr.crcByte ++ [.crcRead])) s =
      .next (s.setBlock ((s.block.setCrcReg crcSeed).crcFold s.config bytes)) :=
  (runWords_words_cons h .crcInit _).trans (runWords_crcBytes_crcRead bytes
    (running_commandEffect h (i := .crcInit) (by simp) (by simp)))

/-- Settles O36: the sequence folds the bytes from the seed and finalizes the fold. -/
theorem crcCommandsCompute : Obligations.CrcCommandsCompute := fun _ bytes h =>
  runWords_crcInit_crcBytes_crcRead bytes h

/-- Settles O37: CRC_READ leaves the register, so the bytes after it go on from the first fold. -/
theorem crcReadGivesPrefix : Obligations.CrcReadGivesPrefix := fun _ p q h =>
  ⟨_, _, runWords_crcInit_crcBytes_crcRead p h, rfl, runWords_crcBytes_crcRead q h,
    congrArg (crcFinal _) List.foldl_append.symm⟩

/-! ### The check values -/

/-- Settles O38: each value is computed by the bitwise form. -/
theorem crcCheckValues : Obligations.CrcCheckValues := by
  unfold Obligations.CrcCheckValues
  decide +kernel

end Sys2Proof.Machine
end

section
/-! PROOFS. The hex digits (spec/42_hex_codec.md R150, R151) and the five hex commands (R152 to R156): what
each writes outside the fault state, and the accumulator as a number. -/

namespace Sys2Proof.Machine

/-! ### The digits -/

/-- R150's function, with the ranges and the values as numbers. -/
theorem nib_eq_ofNat (c : Byte) : nib c =
    if 0x30 ≤ c.toNat ∧ c.toNat ≤ 0x39 then some (BitVec.ofNat 4 (c.toNat - 0x30))
    else if 0x41 ≤ c.toNat ∧ c.toNat ≤ 0x46 then some (BitVec.ofNat 4 (c.toNat - 0x37))
    else if 0x61 ≤ c.toNat ∧ c.toNat ≤ 0x66 then some (BitVec.ofNat 4 (c.toNat - 0x57))
    else none := by
  have hsub {k : Byte} (h : k ≤ c) : (c - k).setWidth 4 = BitVec.ofNat 4 (c.toNat - k.toNat) := by
    rw [← BitVec.toNat_sub_of_le h, BitVec.ofNat_toNat]
  unfold nib
  split_ifs <;> simp_all [BitVec.le_def] <;> exact hsub (by bv_omega)

/-- R151's function, with the values as numbers. -/
theorem toNat_enc (n : Nibble) :
    (enc n).toNat = if n.toNat ≤ 9 then 0x30 + n.toNat else 0x57 + n.toNat := by
  revert n; decide

/-- Settles O39: `nib` and `enc` range by range, and `nib` undoes `enc`. -/
theorem hexDigitFunctions : Obligations.HexDigitFunctions := ⟨nib_eq_ofNat, toNat_enc, nib_enc⟩

/-- Appending a digit to a word's low end multiplies by 16 and adds the digit (R54, R155). -/
theorem zext32_append_nibble {w : Nat} (x : BitVec w) (n : Nibble) :
    zext32 (x ++ n) = BitVec.ofNat 32 (x.toNat * 16 + n.toNat) := by
  have happ : (x ++ n).toNat = x.toNat * 16 + n.toNat := by
    rw [BitVec.toNat_append, ← Nat.shiftLeft_add_eq_or_of_lt n.isLt, Nat.shiftLeft_eq]
  rw [zext32, ← BitVec.ofNat_toNat, happ]

/-! ### The effects, by the validity of the digits -/

theorem Block.hexDec_of_nib {c1 c2 : Byte} {h l : Nibble} (h1 : nib c1 = some h)
    (h2 : nib c2 = some l) (b : Block) : b.hexDec c1 c2 = b.setRes (zext32 (h ++ l)) := by
  simp [Block.hexDec, h1, h2]

theorem Block.hexDec_of_invalid_first {c1 : Byte} (h1 : nib c1 = none) (c2 : Byte) (b : Block) :
    b.hexDec c1 c2 = b.raise .invalidHexDigit 0#1 c1 := by
  simp [Block.hexDec, h1]

theorem Block.hexDec_of_invalid_second {c1 c2 : Byte} {h : Nibble} (h1 : nib c1 = some h)
    (h2 : nib c2 = none) (b : Block) : b.hexDec c1 c2 = b.raise .invalidHexDigit 1#1 c2 := by
  simp [Block.hexDec, h1, h2]

theorem Block.hexPush_of_invalid {c : Byte} (h : nib c = none) (b : Block) :
    b.hexPush c = b.raise .invalidHexDigit 0#1 c := by
  simp [Block.hexPush, h]

/-- HEX_PUSH's effect for a digit, as arithmetic on the accumulator's value (R155). -/
theorem Block.pushDigit_eq_setHex (b : Block) (n : Nibble) :
    b.pushDigit n =
      b.setHex (BitVec.ofNat 32 (b.hexAcc.toNat * 16 + n.toNat)) (saturatingSucc b.hexCnt) := by
  have hacc : (b.hexAcc <<< 4) ||| zext32 n = zext32 (b.hexAcc ++ n) := by
    simpa [zext32] using zext32_shiftLeft_or_zext32 b.hexAcc n
  rw [Block.pushDigit, hacc, zext32_append_nibble]

/-! ### The commands -/

/-- A command whose effect on the block is known, outside the fault state. -/
theorem exec_of_effect {s : State} (h : s.Running) {i : Instr} {b : Block}
    (hb : commandEffect s.config i s.block = b) : exec i s = .next (s.setBlock b) :=
  hb ▸ exec_of_running h i

/-- Settles O40: the three outcomes are those of HEX_DEC's effect. -/
theorem hexDecDecodesOrRaises : Obligations.HexDecDecodesOrRaises := by
  intro a b s
  refine ⟨rfl, fun hs h l ha hb => ?_, fun hs ha => ?_, fun hs h ha hb => ?_, fun hs => ?_⟩
  · rw [← zext32_append_nibble]
    exact exec_of_effect hs (Block.hexDec_of_nib ha hb _)
  · exact exec_of_effect hs (Block.hexDec_of_invalid_first ha b _)
  · exact exec_of_effect hs (Block.hexDec_of_invalid_second ha hb _)
  · exact exec_of_faulted hs nofun nofun

/-- Settles O41: the word HEX_ENC writes is the two digits, widened with zeros. -/
theorem hexEncWritesDigits : Obligations.HexEncWritesDigits := by
  intro d s
  obtain ⟨hhi, hlo⟩ := extractLsb'_zext32_append (enc (highNibble d)) (enc (lowNibble d))
  have hzero (v : BitVec 16) : (zext32 v).extractLsb' 16 16 = 0#16 := by
    ext i hi
    simp [zext32]
  exact ⟨rfl, fun hs => ⟨_, exec_of_running hs _, hhi, hlo, hzero _⟩,
    fun hs => exec_of_faulted hs nofun nofun⟩

/-- Settles O42: HEX_CLR's effect is a write of zeros to the accumulator and the count. -/
theorem hexClrClearsAccumulator : Obligations.HexClrClearsAccumulator :=
  ⟨by decide, fun _ => ⟨fun hs => exec_of_running hs _, fun hs => exec_of_faulted hs nofun nofun⟩⟩

/-- Settles O43: HEX_PUSH pushes the digit's value or raises. -/
theorem hexPushShiftsOrRaises : Obligations.HexPushShiftsOrRaises := by
  intro c s
  refine ⟨rfl, fun hs n hn => ⟨saturatingSucc s.block.hexCnt, rfl, ?_⟩, fun hs hn => ?_, fun hs => ?_⟩
  · exact exec_of_effect hs ((Block.hexPush_of_nib hn _).trans (Block.pushDigit_eq_setHex _ n))
  · exact exec_of_effect hs (Block.hexPush_of_invalid hn _)
  · exact exec_of_faulted hs nofun nofun

/-- Settles O44: HEX_ACC's effect is a write of the accumulator to `res`. -/
theorem hexAccReadsAccumulator : Obligations.HexAccReadsAccumulator :=
  ⟨by decide, fun _ => ⟨fun hs => exec_of_running hs _, fun hs => exec_of_faulted hs nofun nofun⟩⟩

end Sys2Proof.Machine
end

section
/-! PROOFS. The hex accumulator holds no more than the digits counted (spec/42_hex_codec.md R155,
spec/10_state.md R23). -/

namespace Sys2Proof.Machine

/-- A digit pushed is one more digit counted; at eight digits the count stays, and every word fits. -/
theorem Block.pushDigit_hexFits {b : Block} (h : b.HexFits) (n : Nibble) :
    (b.pushDigit n).HexFits := by
  rw [Block.pushDigit_eq_setHex]
  simp only [Block.HexFits, Block.setHex_hexAcc, Block.setHex_hexCnt, saturatingSucc,
    BitVec.toNat_ofNat] at h ⊢
  obtain hlt | hge := Nat.lt_or_ge b.hexCnt.val 8
  · rw [Nat.min_eq_left hlt, Nat.pow_succ]
    have hn : n.toNat < 16 := n.isLt
    exact (Nat.mod_le _ _).trans_lt (by omega)
  · rw [Nat.min_eq_right (by omega)]
    exact Nat.mod_lt _ (by decide)

/-- SRESET and HEX_CLR clear accumulator and count, HEX_PUSH pushes a digit or raises, and every other
command leaves them. -/
theorem commandEffect_hexFits (c : Config) (i : Instr) {b : Block} (h : b.HexFits) :
    (commandEffect c i b).HexFits := by
  cases i with
  | sreset => exact (by decide : Block.reset.HexFits)
  | hexClr => exact (by decide : (0#32 : Word).toNat < 16 ^ (0 : Fin 9).val)
  | hexPush d =>
    simp only [commandEffect]
    cases hd : nib d with
    | none => rw [Block.hexPush_of_invalid hd]; exact h
    | some n => rw [Block.hexPush_of_nib hd]; exact Block.pushDigit_hexFits h n
  | hexDec c1 c2 => simpa [commandEffect, Block.HexFits] using h
  | _ => exact h

/-- Settles O18: the reset state's accumulator fits, and every effect keeps it so. -/
theorem stepKeepsHexFits : Obligations.StepKeepsHexFits := fun _ _ hs h =>
  step_keeps (P := Block.HexFits) (by decide) (fun c i _ => commandEffect_hexFits c i)
    (fun _ _ hb => hb) h hs

end Sys2Proof.Machine
end

section
/-! PROOFS. The two round trips of HEX_ENC and HEX_DEC (spec/42_hex_codec.md R159). -/

namespace Sys2Proof.Machine

/-- The lowercase form of a hex digit (R159); it leaves every byte outside `A` to `F`. -/
def lowercase (c : Byte) : Byte := if 0x41 ≤ c.toNat ∧ c.toNat ≤ 0x46 then c + 0x20#8 else c

theorem toNat_lowercase (c : Byte) : (lowercase c).toNat =
    if 0x41 ≤ c.toNat ∧ c.toNat ≤ 0x46 then c.toNat + 0x20 else c.toNat := by
  unfold lowercase
  split <;> bv_omega

/-- The digit of a digit's value is its lowercase form (R150, R151). -/
theorem enc_of_nib {c : Byte} {n : Nibble} (h : nib c = some n) : enc n = lowercase c := by
  apply BitVec.eq_of_toNat_eq
  rw [toNat_enc, toNat_lowercase]
  rw [nib_eq_ofNat] at h
  split_ifs at h with hdecimal hupper hlower <;> cases h <;> rw [BitVec.toNat_ofNat]
  · rw [if_pos (by omega), if_neg (by omega)]
    omega
  · rw [if_neg (by omega), if_pos hupper]
    omega
  · rw [if_neg (by omega), if_neg hupper]
    omega

@[simp] theorem highNibble_append (h l : Nibble) : highNibble (h ++ l) = h := by
  revert h l; decide

@[simp] theorem lowNibble_append (h l : Nibble) : lowNibble (h ++ l) = l := by
  revert h l; decide

@[simp] theorem extractLsb'_zext32 (d : Byte) : (zext32 d).extractLsb' 0 8 = d := by
  rw [zext32, BitVec.extractLsb'_setWidth_of_le (by omega), BitVec.extractLsb'_eq_self]

/-- Settles O45: `nib` undoes `enc`, and `enc` undoes `nib` up to the letters' case. -/
theorem hexRoundTrips : Obligations.HexRoundTrips := by
  intro s hs
  refine ⟨fun d => ?_, fun c1 c2 h1 h2 => ?_⟩
  · obtain ⟨t, ht, hrun, hchars⟩ := exec_hexEnc_of_running hs d
    obtain ⟨hhi, hlo⟩ : t.block.res.extractLsb' 8 8 = enc (highNibble d) ∧
        t.block.res.extractLsb' 0 8 = enc (lowNibble d) := by
      simpa [hexChars] using hchars
    refine ⟨t, _, ht, exec_of_effect hrun (Block.hexDec_of_nib
      (hhi ▸ nib_enc (highNibble d)) (hlo ▸ nib_enc (lowNibble d)) _), ?_⟩
    rw [highNibble_append_lowNibble]
    rfl
  · obtain ⟨h, hh⟩ := Option.ne_none_iff_exists'.mp h1
    obtain ⟨l, hl⟩ := Option.ne_none_iff_exists'.mp h2
    obtain ⟨u, hu, -, hchars⟩ := exec_hexEnc_of_running
      (s := s.setBlock (s.block.setRes (zext32 (h ++ l)))) hs ((zext32 (h ++ l)).extractLsb' 0 8)
    obtain ⟨hhi, hlo⟩ : u.block.res.extractLsb' 8 8 = enc h ∧
        u.block.res.extractLsb' 0 8 = enc l := by
      simpa [hexChars] using hchars
    exact ⟨_, u, exec_of_effect hs (Block.hexDec_of_nib hh hl _), hu,
      hhi.trans (enc_of_nib hh), hlo.trans (enc_of_nib hl)⟩

end Sys2Proof.Machine
end

section
/-! PROOFS. Sequences of pushed digits (spec/42_hex_codec.md R155, R157): what the accumulator holds after
any number of them, and what an invalid one stops. -/

namespace Sys2Proof.Machine

/-! ### The value of a sequence of digits -/

/-- The number that digits make when they follow the digits of `v`, the most significant first. -/
def digitsValue (v : Nat) (ns : List Nibble) : Nat := ns.foldl (fun v n => v * 16 + n.toNat) v

/-- Digits before `ns` count 16 for every digit of `ns`. -/
theorem digitsValue_eq (v : Nat) (ns : List Nibble) :
    digitsValue v ns = v * 16 ^ ns.length + digitsValue 0 ns := by
  induction ns generalizing v with
  | nil => simp [digitsValue]
  | cons n ns ih =>
    calc digitsValue v (n :: ns)
        = (v * 16 + n.toNat) * 16 ^ ns.length + digitsValue 0 ns := ih _
      _ = v * 16 ^ (ns.length + 1) + (n.toNat * 16 ^ ns.length + digitsValue 0 ns) := by ring
      _ = v * 16 ^ (ns.length + 1) + digitsValue (0 * 16 + n.toNat) ns := by
          rw [ih (0 * 16 + n.toNat), Nat.zero_mul, Nat.zero_add]

/-- Modulo 2^32 only the last eight digits count. -/
theorem ofNat_digitsValue_drop {ns : List Nibble} (h : 8 ≤ ns.length) :
    BitVec.ofNat 32 (digitsValue 0 ns) =
      BitVec.ofNat 32 (digitsValue 0 (ns.drop (ns.length - 8))) := by
  have hlen : (ns.drop (ns.length - 8)).length = 8 := by simp; omega
  have hsplit : digitsValue 0 ns =
      digitsValue (digitsValue 0 (ns.take (ns.length - 8))) (ns.drop (ns.length - 8)) := by
    rw [digitsValue, digitsValue, digitsValue, ← List.foldl_append, List.take_append_drop]
  rw [hsplit, digitsValue_eq, hlen]
  apply BitVec.eq_of_toNat_eq
  simp only [BitVec.toNat_ofNat]
  omega

/-! ### Valid digits -/

/-- Digits pushed after those of `v` leave the accumulator at their value modulo 2^32. -/
theorem foldl_pushDigit (ns : List Nibble) (b : Block) (v : Nat) (k : Fin 9) :
    ∃ cnt : Fin 9, cnt.val = min (k.val + ns.length) 8 ∧
      ns.foldl Block.pushDigit (b.setHex (BitVec.ofNat 32 v) k) =
        b.setHex (BitVec.ofNat 32 (digitsValue v ns)) cnt := by
  induction ns generalizing v k with
  | nil => exact ⟨k, by simp; omega, rfl⟩
  | cons n ns ih =>
    obtain ⟨cnt, hcnt, hfold⟩ := ih (v * 16 + n.toNat) (saturatingSucc k)
    have hpush : (b.setHex (BitVec.ofNat 32 v) k).pushDigit n =
        b.setHex (BitVec.ofNat 32 (v * 16 + n.toNat)) (saturatingSucc k) := by
      have hacc : BitVec.ofNat 32 ((BitVec.ofNat 32 v).toNat * 16 + n.toNat) =
          BitVec.ofNat 32 (v * 16 + n.toNat) := by bv_omega
      rw [Block.pushDigit_eq_setHex, Block.setHex_hexAcc, hacc]
      rfl
    refine ⟨cnt, ?_, by rw [List.foldl_cons, hpush, hfold]; rfl⟩
    simp only [hcnt, saturatingSucc, List.length_cons]
    omega

/-- HEX_CLR and pushes of valid digits: they enter a cleared accumulator, and the block keeps running. -/
theorem runWords_hexClr_hexPushes {cs : List Byte} {ns : List Nibble} (hcs : cs.mapM nib = some ns)
    {s : State} (h : s.Running) :
    runWords (words (.hexClr :: cs.map Instr.hexPush)) s =
        .next (s.setBlock (ns.foldl Block.pushDigit (s.block.setHex 0#32 0))) ∧
      (s.setBlock (ns.foldl Block.pushDigit (s.block.setHex 0#32 0))).Running := by
  obtain ⟨hrun, ht⟩ := runWords_hexPushes hcs
    (running_commandEffect h (i := .hexClr) (by simp) (by simp))
  exact ⟨(runWords_words_cons h .hexClr _).trans hrun, ht⟩

/-- Settles O46: the digits' value is folded modulo 2^32, where eight digits shift out all before them. -/
theorem pushedDigitsFillAccumulator : Obligations.PushedDigitsFillAccumulator := by
  intro s cs ns h hcs
  obtain ⟨hrun, -⟩ := runWords_hexClr_hexPushes hcs h
  obtain ⟨cnt, hcnt, hfold⟩ := foldl_pushDigit ns s.block 0 0
  rw [hfold] at hrun
  refine ⟨cnt, ?_, hrun, ofNat_digitsValue_drop⟩
  simpa [length_of_mapM_eq_some hcs] using hcnt

/-! ### An invalid digit -/

/-- In the fault state a run without STATUS and SRESET has no effect (R212). -/
theorem runWords_of_faulted {s : State} (h : s.Faulted) {is : List Instr}
    (his : ∀ i ∈ is, i ≠ .status ∧ i ≠ .sreset) : runWords (words is) s = .next s := by
  induction is with
  | nil => rfl
  | cons i is ih =>
    obtain ⟨⟨hs, hr⟩, his⟩ := List.forall_mem_cons.mp his
    exact (runWords_cons_of_next ((execWord_encode i s).trans (exec_of_faulted h hs hr)) _).trans
      (ih his)

/-- Settles O48: the invalid digit raises, and no command after it is STATUS or SRESET. -/
theorem invalidDigitStopsDecode : Obligations.InvalidDigitStopsDecode := by
  intro s cs ds ns c h hcs hc
  obtain ⟨hrun, ht⟩ := runWords_hexClr_hexPushes hcs h
  refine ⟨_, hrun, ?_⟩
  generalize s.setBlock _ = t at hrun ht ⊢
  have hraise : exec (.hexPush c) t = .next (t.setBlock (t.block.raise .invalidHexDigit 0#1 c)) :=
    exec_of_effect ht (Block.hexPush_of_invalid hc _)
  have hfault : (t.setBlock (t.block.raise .invalidHexDigit 0#1 c)).Faulted :=
    ⟨Block.raise_invariant ht.1 (by decide) _ _, by simp [ErrorKind.code]⟩
  have hrest := runWords_of_faulted hfault (is := ds.map Instr.hexPush ++ [.hexAcc])
    (by simp [or_imp, forall_and])
  rw [List.append_assoc, words, List.map_append]
  exact (runWords_append hrun _).trans
    ((runWords_cons_of_next ((execWord_encode _ t).trans hraise) _).trans hrest)

end Sys2Proof.Machine
end

section
/-! PROOFS. The scanner (spec/43_marker_scanner.md R181 to R190): one byte on a counter as a number from 0 to
5, the four commands, and each counter as the length of the literal's prefix that ends the stream. -/

namespace Sys2Proof.Machine

/-! ### One byte on one counter -/

/-- R181's `n`: the number of bytes of `L` matched after `d`, before a full match resets the counter. -/
def litMatched (L : Vector Byte 5) (c : Fin 5) (d : Byte) : Nat :=
  if d = L[c] then c.val + 1 else if d = L[0] then 1 else 0

theorem litStep_eq (L : Vector Byte 5) (c : Fin 5) (d : Byte) :
    litStep L c d = if h : litMatched L c d < 5 then (⟨litMatched L c d, h⟩, false) else (0, true) := rfl

/-- The full length is reached only by the last byte, on a counter that awaits it. -/
theorem litMatched_eq_five_iff {L : Vector Byte 5} {c : Fin 5} {d : Byte} :
    litMatched L c d = 5 ↔ c = 4 ∧ d = L[4] := by
  constructor
  · intro h
    unfold litMatched at h
    split at h
    · next hc =>
      obtain rfl : c = 4 := by omega
      exact ⟨rfl, hc⟩
    · split at h <;> omega
  · rintro ⟨rfl, rfl⟩
    exact if_pos rfl

theorem litMatched_le (L : Vector Byte 5) (c : Fin 5) (d : Byte) : litMatched L c d ≤ 5 := by
  unfold litMatched
  split_ifs <;> omega

theorem litStep_fst_val (L : Vector Byte 5) (c : Fin 5) (d : Byte) :
    (litStep L c d).1.val = if litMatched L c d = 5 then 0 else litMatched L c d := by
  have hle := litMatched_le L c d
  rw [litStep_eq]
  split
  · next h => rw [if_neg h.ne]
  · rw [if_pos (by omega)]
    rfl

theorem litStep_snd_iff (L : Vector Byte 5) (c : Fin 5) (d : Byte) :
    (litStep L c d).2 = true ↔ litMatched L c d = 5 := by
  have hle := litMatched_le L c d
  rw [litStep_eq]
  split
  · next h => exact iff_of_false Bool.false_ne_true h.ne
  · exact iff_of_true rfl (by omega)

/-! ### The events in `res` -/

theorem eventWord_eq_ofNat (fMask fMess : Bool) : eventWord fMask fMess =
    BitVec.ofNat 32 ((if fMess then 1 else 0) + (if fMask then 2 else 0)) := by
  revert fMask fMess; decide

@[simp] theorem getLsbD_zero_eventWord (fMask fMess : Bool) :
    (eventWord fMask fMess).getLsbD 0 = fMess := by
  revert fMask fMess; decide

@[simp] theorem getLsbD_one_eventWord (fMask fMess : Bool) :
    (eventWord fMask fMess).getLsbD 1 = fMask := by
  revert fMask fMess; decide

@[simp] theorem extractLsb'_eventWord (fMask fMess : Bool) :
    (eventWord fMask fMess).extractLsb' 2 30 = 0#30 := by
  revert fMask fMess; decide

theorem eventWord_ne_zero_iff (fMask fMess : Bool) :
    eventWord fMask fMess ≠ 0#32 ↔ fMess = true ∨ fMask = true := by
  revert fMask fMess; decide

@[simp] theorem Block.scanByte_messCnt (b : Block) (d : Byte) :
    (b.scanByte d).messCnt = (litStep litMess b.messCnt d).1 := rfl
@[simp] theorem Block.scanByte_maskCnt (b : Block) (d : Byte) :
    (b.scanByte d).maskCnt = (litStep litMask b.maskCnt d).1 := rfl
@[simp] theorem Block.scanByte_res (b : Block) (d : Byte) : (b.scanByte d).res =
    eventWord (litStep litMask b.maskCnt d).2 (litStep litMess b.messCnt d).2 := rfl

/-! ### The commands -/

theorem word_add_one_eq_ofNat (v : Word) : v + 1#32 = BitVec.ofNat 32 (v.toNat + 1) := by bv_omega

/-- Settles O50: SCAN_CLR's effect is a write of zeros to the counters and the position. -/
theorem scanClrStartsStream : Obligations.ScanClrStartsStream :=
  ⟨by decide, fun _ => ⟨fun hs => exec_of_running hs _, fun hs => exec_of_faulted hs nofun nofun⟩⟩

/-- Settles O51: `litMatched` is R181's rule for each literal. -/
theorem scanByteStepsBothCounters : Obligations.ScanByteStepsBothCounters := by
  intro d s
  refine ⟨rfl, fun hs => ?_, fun hs => exec_of_faulted hs nofun nofun⟩
  intro mess mask next
  have hnext (L : Vector Byte 5) (c : Fin 5) : next L.toList c.val = litMatched L c d := by
    simp [next, litMatched, eq_comm]
  have hmess : next mess s.block.messCnt = litMatched litMess s.block.messCnt d := hnext litMess _
  have hmask : next mask s.block.maskCnt = litMatched litMask s.block.maskCnt d := hnext litMask _
  rw [hmess, hmask]
  refine ⟨_, _, litStep_fst_val _ _ _, litStep_fst_val _ _ _, ?_⟩
  rw [exec_of_running hs, ← word_add_one_eq_ofNat]
  have hres : BitVec.ofNat 32 ((if litMatched litMess s.block.messCnt d = 5 then 1 else 0) +
      (if litMatched litMask s.block.maskCnt d = 5 then 2 else 0)) = (s.block.scanByte d).res := by
    simp [eventWord_eq_ofNat, litStep_snd_iff]
  rw [hres]
  rfl

/-- Settles O52: SCAN_SKIP's effect is the position's increment. -/
theorem scanSkipCountsByte : Obligations.ScanSkipCountsByte :=
  ⟨by decide, fun s => ⟨fun hs => word_add_one_eq_ofNat s.block.scanPos ▸ exec_of_running hs _,
    fun hs => exec_of_faulted hs nofun nofun⟩⟩

/-- Settles O53: SCAN_POS's effect is a write of the position to `res`. -/
theorem scanPosReadsPosition : Obligations.ScanPosReadsPosition :=
  ⟨by decide, fun _ => ⟨fun hs => exec_of_running hs _, fun hs => exec_of_faulted hs nofun nofun⟩⟩

/-- Settles O54: a byte of a literal by the table's own rows, any other by the reset of both counters. -/
theorem scannerTransitionTable : Obligations.ScannerTransitionTable := by
  intro d s hs row
  have hrow : row = (((litStep litMess s.block.messCnt d).1.val,
      (litStep litMask s.block.maskCnt d).1.val),
      (if (litStep litMess s.block.messCnt d).2 then 1 else 0) +
        (if (litStep litMask s.block.maskCnt d).2 then 2 else 0)) := by
    have hpair := hs.1.1
    simp only [row]
    generalize s.block.messCnt = m at hpair ⊢
    generalize s.block.maskCnt = k at hpair ⊢
    clear row
    by_cases hd : d ∈ literalBytes
    · -- `d` outermost, so that the six bytes and not all 256 are tried
      revert m k
      revert d
      decide
    · obtain ⟨hm, hk⟩ := litStep_of_not_mem_literalBytes hd m k
      rw [hm, hk]
      simp only [literalBytes, List.mem_cons, List.not_mem_nil, or_false, not_or] at hd
      simp only [hd, if_false]
      split <;> rfl
  refine ⟨_, _, (congrArg Prod.fst hrow).symm, ?_⟩
  rw [exec_of_running hs, hrow, ← eventWord_eq_ofNat]
  rfl

/-- `=` leaves both counters 0: it is the last byte of each literal and no other byte of one (R180). -/
theorem litStep_equals (m k : Fin 5) :
    (litStep litMess m 0x3D#8).1 = 0 ∧ (litStep litMask k 0x3D#8).1 = 0 := by
  revert m k; decide

/-- Settles O55: an event needs its counter at 4 and the byte `=`, and no pair of R35 is (4, 4). -/
theorem markerEventsComeFromEquals : Obligations.MarkerEventsComeFromEquals := by
  intro d s hs
  refine ⟨_, exec_of_running hs _, ?_, ?_, ?_⟩ <;>
    simp only [commandEffect, State.setBlock_block, Block.scanByte_res, Block.scanByte_messCnt,
      Block.scanByte_maskCnt, getLsbD_zero_eventWord, getLsbD_one_eventWord, extractLsb'_eventWord,
      eventWord_ne_zero_iff, litStep_snd_iff, litMatched_eq_five_iff]
  · rintro ⟨⟨hm, -⟩, hk, -⟩
    have hpair := hs.1.1
    rw [hm, hk] at hpair
    exact absurd hpair (by decide)
  · intro hevent
    obtain rfl : d = 0x3D#8 := hevent.elim (·.2) (·.2)
    exact ⟨rfl, litStep_equals _ _⟩

/-! ### Streams -/

/-- A non-empty proper prefix of `L` ends the stream exactly when the counter is its length. -/
def Tracks (L : Vector Byte 5) (ds : List Byte) (c : Fin 5) : Prop :=
  ∀ n < 5, L.toList.take n <:+ ds ↔ n = 0 ∨ n = c.val

/-- The first byte of a literal occurs nowhere else in it: R190's reason for exactness. -/
abbrev FirstByteOnce (L : Vector Byte 5) : Prop := ∀ i : Fin 5, L[i] = L[0] → i = 0

theorem firstByteOnce_litMess : FirstByteOnce litMess := by decide

theorem firstByteOnce_litMask : FirstByteOnce litMask := by decide

theorem concat_suffix_concat_iff {α : Type} {l₁ l₂ : List α} {a b : α} :
    l₁ ++ [a] <:+ l₂ ++ [b] ↔ a = b ∧ l₁ <:+ l₂ := by
  rw [List.suffix_concat_iff]
  simp [and_comm]

theorem tracks_nil (L : Vector Byte 5) : Tracks L [] 0 := by
  intro n hn
  simp [List.take_eq_nil_iff]

/-- After one more byte the prefix that ends the stream is as long as R181 computes. -/
theorem Tracks.take_suffix_concat_iff {L : Vector Byte 5} (hL : FirstByteOnce L) {ds : List Byte}
    {c : Fin 5} (h : Tracks L ds c) (d : Byte) {n : Nat} (hn : n < 5) :
    L.toList.take (n + 1) <:+ ds ++ [d] ↔ n + 1 = litMatched L c d := by
  rw [← List.take_append_getElem (by simpa using hn), concat_suffix_concat_iff, h n hn,
    Vector.getElem_toList]
  unfold litMatched
  split_ifs with hc h0
  · constructor
    · rintro ⟨hd, rfl | rfl⟩
      · rw [hL c (hc.symm.trans hd.symm)]
        rfl
      · rfl
    · intro e
      obtain rfl : n = c.val := by omega
      exact ⟨hc.symm, .inr rfl⟩
  · constructor
    · rintro ⟨hd, rfl | rfl⟩
      · rfl
      · exact absurd hd.symm hc
    · intro e
      obtain rfl : n = 0 := by omega
      exact ⟨h0.symm, .inl rfl⟩
  · constructor
    · rintro ⟨hd, rfl | rfl⟩
      · exact absurd hd.symm h0
      · exact absurd hd.symm hc
    · intro e
      exact e.elim

theorem Tracks.concat {L : Vector Byte 5} (hL : FirstByteOnce L) {ds : List Byte} {c : Fin 5}
    (h : Tracks L ds c) (d : Byte) : Tracks L (ds ++ [d]) (litStep L c d).1 := by
  intro n hn
  cases n with
  | zero => simp
  | succ n =>
    rw [h.take_suffix_concat_iff hL d (by omega), litStep_fst_val]
    split <;> omega

/-- A counter that tracks the stream reports the literal exactly when the stream ends in it. -/
theorem Tracks.found_iff {L : Vector Byte 5} (hL : FirstByteOnce L) {ds : List Byte} {c : Fin 5}
    (h : Tracks L ds c) (d : Byte) : (litStep L c d).2 = true ↔ L.toList <:+ ds ++ [d] := by
  have hfull : L.toList.take (4 + 1) = L.toList := List.take_of_length_le (by simp)
  rw [litStep_snd_iff, ← hfull, h.take_suffix_concat_iff hL d (by decide), eq_comm]

theorem tracks_foldl_scanByte {b : Block} (hm : b.messCnt = 0) (hk : b.maskCnt = 0) (ds : List Byte) :
    Tracks litMess ds (ds.foldl Block.scanByte b).messCnt ∧
      Tracks litMask ds (ds.foldl Block.scanByte b).maskCnt := by
  induction ds using List.reverseRecOn with
  | nil => exact ⟨hm ▸ tracks_nil litMess, hk ▸ tracks_nil litMask⟩
  | append_singleton ds d ih =>
    rw [List.foldl_concat]
    exact ⟨ih.1.concat firstByteOnce_litMess d, ih.2.concat firstByteOnce_litMask d⟩

/-- A SCAN_BYTE per byte of a stream, outside the fault state. -/
theorem runWords_scanBytes (ds : List Byte) {s : State} (h : s.Running) :
    runWords (words (ds.map Instr.scanByte)) s =
      .next (s.setBlock (ds.foldl Block.scanByte s.block)) := by
  induction ds generalizing s with
  | nil => rfl
  | cons d ds ih =>
    have hrun := running_commandEffect h (i := .scanByte d) (by simp) (by simp)
    exact (runWords_words_cons h (.scanByte d) _).trans (ih hrun)

/-- Settles O56: the counters track the stream before the last byte, which then reports its literal. -/
theorem scannerIsExact : Obligations.ScannerIsExact := by
  intro s ds d h hm hk
  obtain ⟨hmess, hmask⟩ := tracks_foldl_scanByte hm hk ds
  refine ⟨_, runWords_scanBytes (ds ++ [d]) h, ?_⟩
  rw [State.setBlock_block, List.foldl_concat, Block.scanByte_res, getLsbD_zero_eventWord,
    getLsbD_one_eventWord]
  exact ⟨hmess.found_iff firstByteOnce_litMess d, hmask.found_iff firstByteOnce_litMask d,
    extractLsb'_eventWord _ _⟩

end Sys2Proof.Machine
end

section
/-! PROOFS. Raising an error (spec/60_exceptions.md R211, R213, R214, R218, R219): which words raise from a
state outside the fault state, what each records, and that it writes nothing else. -/

namespace Sys2Proof.Machine

/-! ### The causes -/

/-- The error a word raises outside the fault state, with the index and the data it records: legality
before the characters, and HEX_DEC's A before its B (R213, R214, R218). -/
inductive Raises (w : Word) : ErrorKind → BitVec 1 → Byte → Prop
  | illegal : decode w = .illegal → Raises w .illegalCommand 0#1 (opField w)
  | hexDecFirst {a b : Byte} : decode w = .command (.hexDec a b) → nib a = none →
      Raises w .invalidHexDigit 0#1 a
  | hexDecSecond {a b : Byte} : decode w = .command (.hexDec a b) → nib a ≠ none → nib b = none →
      Raises w .invalidHexDigit 1#1 b
  | hexPush {b : Byte} : decode w = .command (.hexPush b) → nib b = none →
      Raises w .invalidHexDigit 0#1 b

/-- A word with a cause raises its error and does nothing else (R211). -/
theorem Raises.execWord_eq {w : Word} {e : ErrorKind} {idx : BitVec 1} {d : Byte}
    (h : Raises w e idx d) {s : State} (hs : s.Running) :
    execWord w s = .next (s.setBlock (s.block.raise e idx d)) := by
  cases h with
  | illegal hd => exact (execWord_of_illegal hd s).trans (illegalCommand_of_running hs w)
  | hexDecFirst hd ha =>
    exact (execWord_of_command hd s).trans (exec_of_effect hs (Block.hexDec_of_invalid_first ha _ _))
  | hexDecSecond hd ha hb =>
    obtain ⟨n, hn⟩ := Option.ne_none_iff_exists'.mp ha
    exact (execWord_of_command hd s).trans (exec_of_effect hs (Block.hexDec_of_invalid_second hn hb _))
  | hexPush hd hb =>
    exact (execWord_of_command hd s).trans (exec_of_effect hs (Block.hexPush_of_invalid hb _))

/-- The raise is what the error fields then hold. -/
theorem Raises.recorded {w : Word} {e : ErrorKind} {idx : BitVec 1} {d : Byte}
    (h : Raises w e idx d) {s t : State} (hs : s.Running) (ht : execWord w s = .next t) :
    t.block.errCode = e.code ∧ t.block.errIdx = idx ∧ t.block.errData = d := by
  rw [h.execWord_eq hs] at ht
  cases ht
  exact ⟨rfl, rfl, rfl⟩

/-- A command that enters the fault state has one of the causes: HEX_DEC and HEX_PUSH raise only for an
invalid character, and no other command raises. -/
theorem exists_raises_of_command {w : Word} {i : Instr} (hd : decode w = .command i) {s : State}
    (hs : s.Running) (hf : (commandEffect s.config i s.block).errCode ≠ 0x00#8) :
    ∃ e idx d, Raises w e idx d := by
  cases i with
  | hexDec a b =>
    obtain ⟨ha, -⟩ | ⟨ha, hb, -⟩ | ⟨h, l, -, -, e⟩ := s.block.hexDec_cases a b
    · exact ⟨_, _, _, .hexDecFirst hd ha⟩
    · exact ⟨_, _, _, .hexDecSecond hd ha hb⟩
    · exact absurd hs.2 (by simpa [commandEffect, e] using hf)
  | hexPush b =>
    obtain ⟨hb, -⟩ | ⟨n, -, e⟩ := s.block.hexPush_cases b
    · exact ⟨_, _, _, .hexPush hd hb⟩
    · exact absurd hs.2 (by simpa [commandEffect, e] using hf)
  | _ => exact absurd (running_commandEffect hs (by simp) (by simp)).2 hf

/-- A word that enters the fault state has one of the causes, and raises its error. -/
theorem exists_raises_of_execWord {w : Word} {s t : State} (hs : s.Running)
    (h : execWord w s = .next t) (ht : t.block.errCode ≠ 0x00#8) :
    ∃ e idx d, Raises w e idx d ∧ t = s.setBlock (s.block.raise e idx d) := by
  obtain ⟨e, idx, d, hr⟩ : ∃ e idx d, Raises w e idx d := by
    cases hd : decode w with
    | illegal => exact ⟨_, _, _, .illegal hd⟩
    | command i =>
      rw [execWord_of_command hd, exec_of_running hs] at h
      cases h
      exact exists_raises_of_command hd hs ht
  rw [hr.execWord_eq hs] at h
  exact ⟨e, idx, d, hr, (Host.Outcome.next.inj h).symm⟩

/-- R213: only an illegal word raises IllegalCommand. -/
theorem Raises.decode_eq_illegal {w : Word} {e : ErrorKind} {idx : BitVec 1} {d : Byte}
    (h : Raises w e idx d) (he : e.code = 0x07#8) : decode w = .illegal := by
  cases h with
  | illegal hd => exact hd
  | hexDecFirst | hexDecSecond | hexPush => exact absurd he (by decide)

/-- R214: only HEX_DEC and HEX_PUSH raise InvalidHexDigit, for a character that is no digit. -/
theorem Raises.exists_invalid_digit {w : Word} {e : ErrorKind} {idx : BitVec 1} {d : Byte}
    (h : Raises w e idx d) (he : e.code = 0x02#8) :
    (∃ a b, decode w = .command (.hexDec a b) ∧ (nib a = none ∨ nib b = none)) ∨
      ∃ b, decode w = .command (.hexPush b) ∧ nib b = none := by
  cases h with
  | illegal => exact absurd he (by decide)
  | hexDecFirst hd ha => exact .inl ⟨_, _, hd, .inl ha⟩
  | hexDecSecond hd ha hb => exact .inl ⟨_, _, hd, .inr hb⟩
  | hexPush hd hb => exact .inr ⟨_, hd, hb⟩

/-! ### The statements -/

/-- Settles O14: the word has a cause, and its whole effect is the raise. -/
theorem raisingWordHasNoOtherEffect : Obligations.RaisingWordHasNoOtherEffect := by
  intro s t w hs h ht
  obtain ⟨e, idx, d, -, rfl⟩ := exists_raises_of_execWord hs h ht
  rfl

/-- Settles O15: the code in the fault state entered is that of the word's cause, and each cause records
what its raise writes. -/
theorem causeOfEachError : Obligations.CauseOfEachError := by
  intro s t w hs h
  have hillegal (hcode : t.block.errCode = 0x07#8) : decode w = .illegal := by
    obtain ⟨e, idx, d, hr, rfl⟩ := exists_raises_of_execWord hs h (by simp [hcode])
    exact hr.decode_eq_illegal hcode
  refine ⟨⟨hillegal, fun hd => ((Raises.illegal hd).recorded hs h).1⟩, ⟨fun hcode => ?_, ?_⟩,
    fun hcode => ((Raises.illegal (hillegal hcode)).recorded hs h).2,
    fun a b hd ha => ((Raises.hexDecFirst hd ha).recorded hs h).2,
    fun a b hd ha hb => ((Raises.hexDecSecond hd ha hb).recorded hs h).2,
    fun b hd hb => ((Raises.hexPush hd hb).recorded hs h).2⟩
  · obtain ⟨e, idx, d, hr, rfl⟩ := exists_raises_of_execWord hs h (by simp [hcode])
    exact hr.exists_invalid_digit hcode
  · rintro (⟨a, b, hd, hab⟩ | ⟨b, hd, hb⟩)
    · by_cases ha : nib a = none
      · exact ((Raises.hexDecFirst hd ha).recorded hs h).1
      · exact ((Raises.hexDecSecond hd ha (hab.resolve_left ha)).recorded hs h).1
    · exact ((Raises.hexPush hd hb).recorded hs h).1

end Sys2Proof.Machine
end

section
/-! PROOFS. Steps that keep what is recorded (spec/60_exceptions.md R212, R220, R226): an idle step keeps
the block, and in the fault state only a reset changes the error fields. -/

namespace Sys2Proof.Machine

/-! ### The idle step -/

theorem idleCycle_of_invariant {s : State} (h : s.block.Invariant) : idleCycle s = .next s :=
  applyToBlock_of_invariant h

/-- Settles O8: an empty port and an idle input both make an idle cycle. -/
theorem idleStepHoldsState : Obligations.IdleStepHoldsState := by
  intro s rest h
  refine ⟨fun hport => ?_, fun hport => ?_⟩
  · rw [step, nextInput_of_empty hport]
    exact idleCycle_of_invariant h
  · rw [step, nextInput_of_cons hport]
    exact idleCycle_of_invariant (s := s.setPort rest) h

/-! ### The fault state -/

/-- In the fault state a word is SRESET's and resets, or it keeps the error fields: STATUS writes `res`,
and every other word has no effect (R212). -/
theorem wordEffect_of_fault (c : Config) (w : Word) {b : Block} (hb : b.errCode ≠ 0x00#8) :
    (w = encode .sreset ∧ wordEffect c w b = Block.reset) ∨
      wordEffect c w b = b.setRes b.statusWord ∨ wordEffect c w b = b := by
  have hf : b.inFault = true := b.inFault_iff.mpr hb
  cases hd : decode w with
  | illegal => simp [wordEffect_of_illegal hd, hf]
  | command i =>
    rw [wordEffect_of_command hd]
    by_cases hr : i = .sreset
    · subst hr
      exact .inl ⟨decode_eq_command_iff.mp hd, by simp [commandEffect]⟩
    by_cases hs : i = .status
    · subst hs
      exact .inr (.inl (by simp [commandEffect]))
    · exact .inr (.inr (by simp [hf, hr, hs]))

/-- An input other than idle comes from the head of the port. -/
theorem port_head?_of_nextInput {s : State} {e : PortInput} (h : (nextInput s).1 = e)
    (he : e ≠ .idle) : s.port.head? = some e := by
  cases hport : s.port with
  | nil => rw [nextInput_of_empty hport] at h; exact absurd h.symm he
  | cons x rest => rw [nextInput_of_cons hport] at h; exact congrArg some h

/-- Settles O13: a step is one of the two resets, an idle cycle, or a word that keeps the error fields. -/
theorem faultStateLeftOnlyByReset : Obligations.FaultStateLeftOnlyByReset := by
  intro s t hf h
  obtain ⟨-, b, rfl, ⟨hin, rfl⟩ | ⟨-, rfl⟩ | ⟨w, hin, rfl⟩⟩ := step_eq_next h
  · exact .inr ⟨rfl, .inl (port_head?_of_nextInput hin nofun)⟩
  · exact .inl ⟨rfl, rfl, rfl⟩
  · obtain ⟨rfl, e⟩ | e | e := wordEffect_of_fault s.config w hf <;> rw [e]
    · exact .inr ⟨rfl, .inr (port_head?_of_nextInput hin nofun)⟩
    · exact .inl ⟨rfl, rfl, rfl⟩
    · exact .inl ⟨rfl, rfl, rfl⟩

end Sys2Proof.Machine
end

section
/-! PROOFS. The port (spec/30_encoding.md R70; spec/70_reset_and_hazards.md R240, R248): the two ways a host
resets the block, and that stepping over presented words is the run of them. -/

namespace Sys2Proof.Machine

/-! ### The reset action -/

theorem step_of_hardReset {s : State} {rest : List PortInput} (h : s.port = .hardReset :: rest) :
    step s = hardReset (s.setPort rest) := by
  rw [step, nextInput_of_cons h]

theorem hardReset_of_invariant {s : State} (h : s.block.Invariant) :
    hardReset s = .next (s.setBlock Block.reset) :=
  applyToBlock_of_invariant h

/-- Settles O7: the hardware reset and the word of SRESET each write the reset block, fault state or not. -/
theorem resetActionSetsEveryField : Obligations.ResetActionSetsEveryField := by
  intro s rest h
  refine ⟨fun hport => ?_, fun hport => ?_⟩
  · rw [step_of_hardReset hport]
    exact hardReset_of_invariant (s := s.setPort rest) h
  · rw [step_of_command hport]
    exact (execWord_encode .sreset _).trans (exec_sreset_of_invariant (s := s.setPort rest) h)

/-! ### Runs -/

theorem coreRun_succ_of_next {M : Host.Core} {s t : M.State} (h : M.step s = .next t) (k : Nat) :
    M.run (k + 1) s = M.run k t := by
  rw [Host.Core.run, h]

theorem coreRun_succ_of_refused {M : Host.Core} {s : M.State} {r : M.Refusal}
    (h : M.step s = .refused r) (k : Nat) : M.run (k + 1) s = .refused r := by
  rw [Host.Core.run, h]

theorem runWords_cons_of_refused {w : Word} {s : State} {r : Refusal} (h : execWord w s = .refused r)
    (ws : List Word) : runWords (w :: ws) s = .refused r := by
  rw [runWords, h]

theorem step_of_command_of_invariant {s : State} {w : Word} {rest : List PortInput}
    (h : s.port = .command w :: rest) (hinv : s.block.Invariant) :
    step s = .next ((s.setPort rest).setBlock (wordEffect s.config w s.block)) :=
  (step_of_command h).trans (execWord_of_invariant (s := s.setPort rest) hinv w)

theorem step_of_command_refused {s : State} {w : Word} {rest : List PortInput}
    (h : s.port = .command w :: rest) (hinv : ¬ s.block.Invariant) :
    step s = .refused .invariantViolated :=
  (step_of_command h).trans (execWord_refused (s := s.setPort rest) hinv w)

/-- Settles O9, by induction on the words: a word's effect neither reads nor writes the port, so the step
that takes it and the run that applies it go on from states that differ in the port alone. -/
theorem runIsStepsOverThePort : Obligations.RunIsStepsOverThePort := by
  intro ws
  induction ws with
  | nil =>
    rintro s rest rfl
    rfl
  | cons w ws ih =>
    intro s rest hport
    by_cases hinv : s.block.Invariant
    · have hstep := step_of_command_of_invariant hport hinv
      have hword := execWord_of_invariant (s := s.setPort rest) hinv w
      exact (coreRun_succ_of_next (M := core) hstep _).trans
        ((ih _ rest rfl).trans (runWords_cons_of_next hword ws).symm)
    · have hstep := step_of_command_refused hport hinv
      have hword := execWord_refused (s := s.setPort rest) hinv w
      exact (coreRun_succ_of_refused (M := core) hstep _).trans (runWords_cons_of_refused hword ws).symm

end Sys2Proof.Machine
end
